-- ==== Sys2Proof/Word.lean ====
section
/-! DEFINITION. The word types of GLC: the widths of spec/00_scope.md R8, 10_state.md R40 and 30_encoding.md R91, R97. -/

namespace Sys2Proof

/-- One register of either bank (R8 `BYTE`), a pin index, a raw codec operand. -/
abbrev Byte := BitVec 8

/-- A command word (R90). -/
abbrev Word := BitVec 16

/-- The data half of a response, and one diagnostics record (R97, R191). -/
abbrev Data := BitVec 64

/-- A bank base register (R21, R22): 33 bits, because base + offset is not wrapped (R66). -/
abbrev Base := BitVec 33

end Sys2Proof
end

