-- ==== Sys2Proof/Syntax.lean ====
section
/-! DEFINITION. The eighteen commands of spec/30_encoding.md R93, the raw fields of a command word (R91), and the names of
results and statuses (R99, R210). -/

namespace Sys2Proof

/-- The operations of R93, one constructor for each row of spec/opcode_table.json. `i` is a pin index in [0, 256), `b` a raw byte,
`v` the one-bit value operand (R92). -/
inductive Instr where
  | req (i : Byte)
  | free (i : Byte)
  | getl (i : Byte)
  | getd (i : Byte)
  | setl (i : Byte) (v : Bool)
  | dout (i : Byte) (v : Bool)
  | din (i : Byte)
  | diag (i : Byte)
  | dump
  | init
  | teardown
  | down (b : Byte)
  | dpull (b : Byte)
  | dmux (b : Byte)
  | isout (b : Byte)
  | rlvl (b : Byte)
  | sout (b : Byte) (v : Bool)
  | sin (b : Byte)
  deriving DecidableEq, Repr

/-- The four fields of format `C` (R91), before any check that they name an operation. -/
structure Command where
  /-- bits 15:11 -/
  op : BitVec 5
  /-- bits 10:9, reserved -/
  z : BitVec 2
  /-- bit 8 -/
  v : Bool
  /-- bits 7:0 -/
  arg : Byte
  deriving DecidableEq, Repr

/-- The variants of `decode_ownership` (R99, R121). -/
inductive Ownership where
  | none
  | embeddedController
  | host
  | invalid
  deriving DecidableEq, Repr

/-- The variants of `decode_pull` (R99, R122). -/
inductive Pull where
  | noPull
  | pullUp
  | pullDown
  | invalid
  deriving DecidableEq, Repr

/-- The variants of `decode_mux` (R99, R123). -/
inductive MuxFn where
  | fn0
  | fn1
  | fn2
  | fn3
  deriving DecidableEq, Repr

/-- The variants of `read_level` (R99, R125). -/
inductive Level where
  | low
  | high
  deriving DecidableEq, Repr

/-- The direction of a pin (R99, R124). -/
inductive Direction where
  | output
  | input
  deriving DecidableEq, Repr

/-- The status codes of R210, in the table's order. -/
inductive Status where
  | ok
  | discoveryFailed
  | notMemoryMapped
  | regionUnavailable
  | ownershipConflict
  | unsafeDirectionChange
  | illegalCommand
  | notReady
  | notRequested
  | unsupportedChip
  | alreadyConstructed
  deriving DecidableEq, Repr

end Sys2Proof
end

