-- ==== Sys2Proof/Config.lean ====
section
/-! DEFINITION. What an implementation fixes: the constants of spec/00_scope.md R8, the parameters of R9 with the spec's defaults,
and the free values. The parameters are a record of plain data that State carries and no step changes (log 1). -/

namespace Sys2Proof

/-- `NPIN` (R8): the number of pins. -/
abbrev Config.nPin : Nat := 256

/-- Positions of the fields of the GPIO byte and of the IOMUX byte (R9, R31, R32). -/
structure Layout where
  /-- `OWN_LSB`, low bit of the 2-bit ownership field -/
  ownLsb : Nat
  /-- `STICKY_BIT` -/
  stickyBit : Nat
  /-- `PULL_LSB`, low bit of the 2-bit pull field -/
  pullLsb : Nat
  /-- `OEB_BIT`, the inverted output enable -/
  oebBit : Nat
  /-- `OUT_BIT` -/
  outBit : Nat
  /-- `IN_BIT`, the sampled input -/
  inBit : Nat
  /-- `MUX_LSB`, low bit of the 2-bit selector of the IOMUX byte -/
  muxLsb : Nat
  deriving DecidableEq, Repr

/-- What the parameter `EnvStep` (R82) lets agents other than GLC change, apart from the pad levels, which they always may. -/
structure EnvPermission where
  gpio : Bool
  iomux : Bool
  pmidx : Bool
  pmreg : Bool
  deriving DecidableEq, Repr

/-- The parameters of R9. NCTX is not here: it is the length of the list of contexts in State. -/
structure Params where
  layout : Layout
  /-- `OWN_CODE`: entry `f` is the meaning of ownership field value `f` (R36). -/
  ownCode : Vector Ownership 4
  /-- `PULL_CODE`: entry `f` is the meaning of pull field value `f` (R37). -/
  pullCode : Vector Pull 4
  pmIndexPort : BitVec 16
  pmDataPort : BitVec 16
  pmBaseReg : Nat
  gpioOffset : Nat
  iomuxOffset : Nat
  bankSize : Nat
  /-- `LINE_BASE` (D25): the host framework's number of pin 0; no rule reads it. -/
  lineBase : Nat
  /-- `LABEL` (D33): exported beside NPIN; no rule reads it. -/
  label : String
  envStep : EnvPermission
  /-- `PadLoopback` (R83). -/
  padLoopback : Bool
  deriving DecidableEq, Repr

/-- The default bit positions of R9 (PRESUMED by the spec: general knowledge G2, G5; log 1). -/
def Layout.default : Layout where
  ownLsb := 0
  stickyBit := 2
  pullLsb := 3
  oebBit := 5
  outBit := 6
  inBit := 7
  muxLsb := 0

/-- The defaults of R9 (log 1). -/
def Params.default : Params where
  layout := Layout.default
  ownCode := #v[.none, .embeddedController, .host, .invalid]
  pullCode := #v[.pullUp, .noPull, .invalid, .pullDown]
  pmIndexPort := 0xCD6
  pmDataPort := 0xCD7
  pmBaseReg := 0x24
  gpioOffset := 0x100
  iomuxOffset := 0xD00
  bankSize := 0x100
  lineBase := 0
  label := ""
  envStep := { gpio := false, iomux := false, pmidx := false, pmreg := false }
  padLoopback := false

/-- FREE VALUE (R83, U4; log 8): the level a read samples from a pad that no recorded input drives. `draw` counts the draws made so
far, so that each read has a level of its own; `pin` is the pin read. -/
opaque Config.padLevel (draw pin : Nat) : Bool

/-- FREE VALUE (R72, U7; log 9): the arbiter's answer to a request for `[base, base + size)` when no recorded input gives it. -/
opaque Config.arbiterGrants (draw base size : Nat) : Bool

end Sys2Proof
end

