-- ==== Sys2Proof/WellFormed.lean ====
section
/-! DEFINITION. Well-formedness: which raw commands name an operation (spec/30_encoding.md R93, R94), and what a model requires of
the parameters (00_scope.md R9; 20_memory.md R61, R62, R64; 92_eei_decisions.md D2 to D9).

A term of `Instr` needs no check of its own: a pin index and a byte are `BitVec 8`, so "there is no out-of-range index" (R160). -/

namespace Sys2Proof

/-- The five-bit operation codes that R93 assigns. -/
def Command.opAssigned (c : Command) : Bool :=
  (1 ≤ c.op.toNat && c.op.toNat ≤ 0x0B) || (0x10 ≤ c.op.toNat && c.op.toNat ≤ 0x16)

/-- SETL, DOUT and SOUT take the value operand `v` (R91). -/
def Command.takesValue (c : Command) : Bool :=
  c.op.toNat = 0x05 || c.op.toNat = 0x06 || c.op.toNat = 0x15

/-- DUMP, INIT and TEARDOWN take no argument (R91). -/
def Command.takesNoArg (c : Command) : Bool :=
  c.op.toNat = 0x09 || c.op.toNat = 0x0A || c.op.toNat = 0x0B

/-- The legal commands: all that R94 does not list as illegal. -/
def Command.wellFormed (c : Command) : Bool :=
  c.opAssigned && c.z = 0 && (c.takesValue || !c.v) && (!c.takesNoArg || c.arg = 0)

/-- The eight bits of the six GPIO fields, field by field. -/
def Layout.gpioBits (l : Layout) : List Nat :=
  [l.ownLsb, l.ownLsb + 1, l.stickyBit, l.pullLsb, l.pullLsb + 1, l.oebBit, l.outBit, l.inBit]

/-- "the six fields are disjoint" (D2) and lie in a byte. -/
def Layout.wellFormed (l : Layout) : Bool :=
  l.gpioBits.all (· < 8) && decide l.gpioBits.Nodup && l.muxLsb ≤ 6

/-- R36: one bit for each owner, both set is invalid, none set is no owner. -/
def Params.ownCodeWellFormed (p : Params) : Bool :=
  p.ownCode = #v[.none, .embeddedController, .host, .invalid] || p.ownCode = #v[.none, .host, .embeddedController, .invalid]

/-- R37, D4: exactly one code decodes to each variant. -/
def Params.pullCodeWellFormed (p : Params) : Bool :=
  decide p.pullCode.toList.Nodup

/-- R64: `BANK_SIZE >= 256`, the two regions do not overlap, and 33 bits hold every base (R66). -/
def Params.regionsWellFormed (p : Params) : Bool :=
  256 ≤ p.bankSize && (p.gpioOffset + p.bankSize ≤ p.iomuxOffset || p.iomuxOffset + p.bankSize ≤ p.gpioOffset)
    && p.gpioOffset < 2 ^ 32 && p.iomuxOffset < 2 ^ 32

/-- What the spec requires of the parameters. -/
def Params.wellFormed (p : Params) : Bool :=
  p.layout.wellFormed && p.ownCodeWellFormed && p.pullCodeWellFormed && p.pmIndexPort ≠ p.pmDataPort && p.pmBaseReg ≤ 252
    && p.regionsWellFormed

end Sys2Proof
end

