-- ==== Sys2Proof/Decode.lean ====
section
/-! DEFINITION. Decoding a command word and encoding a command: the format of spec/30_encoding.md R91, the operand assembly of R92,
the opcode map of R93 and the illegal words of R94. -/

namespace Sys2Proof

/-- Why a word is illegal (R94). -/
inductive Malformed where
  /-- `op` in 0x00, 0x0C..0x0F, 0x17..0x1F -/
  | unassignedOp (op : BitVec 5)
  /-- `z` is not 0b00 -/
  | reservedBits (z : BitVec 2)
  /-- `v` = 1 on an operation without a value operand -/
  | strayValue (op : BitVec 5)
  /-- `arg` is not 0 on DUMP, INIT or TEARDOWN -/
  | strayArg (arg : Byte)
  deriving DecidableEq, Repr

/-- The fields of R91. -/
def fieldsOf (w : Word) : Command where
  op := w.extractLsb' 11 5
  z := w.extractLsb' 9 2
  v := w.getLsbD 8
  arg := w.extractLsb' 0 8

/-- An operation with one 8-bit operand and no value operand. -/
def argOnly (c : Command) (i : Instr) : Except Malformed Instr :=
  if c.v then .error (.strayValue c.op) else .ok i

/-- An operation without operands. -/
def noOperand (c : Command) (i : Instr) : Except Malformed Instr :=
  if c.v then .error (.strayValue c.op) else if c.arg ≠ 0 then .error (.strayArg c.arg) else .ok i

/-- The opcode map of R93, read by the field `op`. -/
def decodeOp (c : Command) : Except Malformed Instr :=
  match c.op.toNat with
  | 0x01 => argOnly c (.req c.arg)
  | 0x02 => argOnly c (.free c.arg)
  | 0x03 => argOnly c (.getl c.arg)
  | 0x04 => argOnly c (.getd c.arg)
  | 0x05 => .ok (.setl c.arg c.v)
  | 0x06 => .ok (.dout c.arg c.v)
  | 0x07 => argOnly c (.din c.arg)
  | 0x08 => argOnly c (.diag c.arg)
  | 0x09 => noOperand c .dump
  | 0x0A => noOperand c .init
  | 0x0B => noOperand c .teardown
  | 0x10 => argOnly c (.down c.arg)
  | 0x11 => argOnly c (.dpull c.arg)
  | 0x12 => argOnly c (.dmux c.arg)
  | 0x13 => argOnly c (.isout c.arg)
  | 0x14 => argOnly c (.rlvl c.arg)
  | 0x15 => .ok (.sout c.arg c.v)
  | 0x16 => argOnly c (.sin c.arg)
  | _ => .error (.unassignedOp c.op)

/-- The command a word names, or why it names none (R93, R94). Total on all 65536 words. -/
def decode (w : Word) : Except Malformed Instr :=
  let c := fieldsOf w
  if c.z ≠ 0 then .error (.reservedBits c.z) else decodeOp c

/-- What the host asks of the decoder: a command is one 16-bit word (R90), so bits above 15 are no part of it. -/
def decodeTableWord (nbits w : Nat) : Option Instr :=
  match decode (BitVec.ofNat 16 (w % 2 ^ nbits)) with
  | .ok i => some i
  | .error _ => none

/-- A word of format `C` with `z` = 0 (R91). -/
def assemble (op : BitVec 5) (v : Bool) (arg : Byte) : Word :=
  op ++ 0#2 ++ BitVec.ofBool v ++ arg

/-- The word of a command, from the patterns of R93. -/
def encode : Instr → Word
  | .req i => assemble 0x01 false i
  | .free i => assemble 0x02 false i
  | .getl i => assemble 0x03 false i
  | .getd i => assemble 0x04 false i
  | .setl i v => assemble 0x05 v i
  | .dout i v => assemble 0x06 v i
  | .din i => assemble 0x07 false i
  | .diag i => assemble 0x08 false i
  | .dump => assemble 0x09 false 0
  | .init => assemble 0x0A false 0
  | .teardown => assemble 0x0B false 0
  | .down b => assemble 0x10 false b
  | .dpull b => assemble 0x11 false b
  | .dmux b => assemble 0x12 false b
  | .isout b => assemble 0x13 false b
  | .rlvl b => assemble 0x14 false b
  | .sout b v => assemble 0x15 v b
  | .sin b => assemble 0x16 false b

/-- One row of the opcode map: "the word selects the row when `(w & mask) == match`" (R93). -/
structure OpcodeRow where
  mnemonic : String
  pattern : Word
  mask : Word
  deriving DecidableEq, Repr

/-- The row's test on a word (R93). -/
def OpcodeRow.selects (r : OpcodeRow) (w : Word) : Bool := w &&& r.mask == r.pattern

/-- The row of each operation, with the `match` and `mask` columns of R93 as printed. -/
def rowOf : Instr → OpcodeRow
  | .req _ => ⟨"REQ", 0x0800, 0xFF00⟩
  | .free _ => ⟨"FREE", 0x1000, 0xFF00⟩
  | .getl _ => ⟨"GETL", 0x1800, 0xFF00⟩
  | .getd _ => ⟨"GETD", 0x2000, 0xFF00⟩
  | .setl _ _ => ⟨"SETL", 0x2800, 0xFE00⟩
  | .dout _ _ => ⟨"DOUT", 0x3000, 0xFE00⟩
  | .din _ => ⟨"DIN", 0x3800, 0xFF00⟩
  | .diag _ => ⟨"DIAG", 0x4000, 0xFF00⟩
  | .dump => ⟨"DUMP", 0x4800, 0xFFFF⟩
  | .init => ⟨"INIT", 0x5000, 0xFFFF⟩
  | .teardown => ⟨"TEARDOWN", 0x5800, 0xFFFF⟩
  | .down _ => ⟨"DOWN", 0x8000, 0xFF00⟩
  | .dpull _ => ⟨"DPULL", 0x8800, 0xFF00⟩
  | .dmux _ => ⟨"DMUX", 0x9000, 0xFF00⟩
  | .isout _ => ⟨"ISOUT", 0x9800, 0xFF00⟩
  | .rlvl _ => ⟨"RLVL", 0xA000, 0xFF00⟩
  | .sout _ _ => ⟨"SOUT", 0xA800, 0xFE00⟩
  | .sin _ => ⟨"SIN", 0xB000, 0xFF00⟩

/-- The whole opcode map of R93, in the table's order. -/
def opcodeTable : List OpcodeRow :=
  [.req 0, .free 0, .getl 0, .getd 0, .setl 0 false, .dout 0 false, .din 0, .diag 0, .dump, .init, .teardown,
    .down 0, .dpull 0, .dmux 0, .isout 0, .rlvl 0, .sout 0 false, .sin 0].map rowOf

/-! ### Written commands (R96) -/

/-- The operands of a command as R96 writes them: `arg` or `arg, v`, in decimal. -/
def operandsText : Instr → String
  | .req i => " " ++ toString i.toNat
  | .free i => " " ++ toString i.toNat
  | .getl i => " " ++ toString i.toNat
  | .getd i => " " ++ toString i.toNat
  | .setl i v => " " ++ toString i.toNat ++ ", " ++ toString v.toNat
  | .dout i v => " " ++ toString i.toNat ++ ", " ++ toString v.toNat
  | .din i => " " ++ toString i.toNat
  | .diag i => " " ++ toString i.toNat
  | .dump => ""
  | .init => ""
  | .teardown => ""
  | .down b => " " ++ toString b.toNat
  | .dpull b => " " ++ toString b.toNat
  | .dmux b => " " ++ toString b.toNat
  | .isout b => " " ++ toString b.toNat
  | .rlvl b => " " ++ toString b.toNat
  | .sout b v => " " ++ toString b.toNat ++ ", " ++ toString v.toNat
  | .sin b => " " ++ toString b.toNat

/-- The line of R96 for a command of context `c`; no prefix means context 0. -/
def written (c : Nat) (i : Instr) : String :=
  (if c = 0 then "" else "c" ++ toString c ++ ": ") ++ (rowOf i).mnemonic ++ operandsText i

/-- The aliases of R96, each a name of the source for exactly one mnemonic. -/
def aliases : List (String × String) :=
  [("request", "REQ"), ("free", "FREE"), ("get", "GETL"), ("get_level", "GETL"), ("set", "SETL"), ("set_level", "SETL"),
    ("get_direction", "GETD"), ("direction_output", "DOUT"), ("set_direction_output", "DOUT"), ("direction_input", "DIN"),
    ("set_direction_input", "DIN"), ("diagnostics-dump", "DUMP"), ("decode_ownership", "DOWN"), ("decode_pull", "DPULL"),
    ("decode_mux", "DMUX"), ("is_output_enabled", "ISOUT"), ("read_level", "RLVL"), ("set_output", "SOUT"), ("set_input", "SIN")]

end Sys2Proof
end

