-- ==== Sys2Proof/Machine/State.lean ====
section
/-! DEFINITION. Everything spec/10_state.md gives the machine, as plain data, with the reset values of R45, and the ways a step can
stop. The platform's inputs (R44) and the order of the agents (R75) are fields too: the step is one function of the state, and a
statement about every state is one about every input and every interleaving. -/

namespace Sys2Proof.Machine

/-- A file of byte registers of the chipset, as its bytes that differ from what an unlisted one reads as, addresses rising. -/
abbrev Memory := List Host.Cell

/-- A response (R97): 4 bits of status and 64 bits of data. -/
structure Response where
  status : BitVec 4
  data : Data
  deriving DecidableEq, Repr

/-- The registers of one caller context (R40). -/
structure Context where
  /-- 1 from the step that accepts a command to the `Respond` step -/
  busy : Bool
  /-- the accepted command word -/
  cmd : Word
  /-- the row of the phase table that runs next (R41) -/
  phase : BitVec 4
  /-- the GPIO byte last read by this command -/
  b : Byte
  /-- the target byte computed by this command -/
  t : Byte
  /-- the IOMUX byte last read by this command -/
  m : Byte
  /-- the copy of `ORIG_VALID[i]` taken by DIAG or DUMP -/
  req : Bool
  /-- loop counter of INIT, DUMP and TEARDOWN -/
  k : BitVec 9
  /-- pins restored by TEARDOWN, records emitted by DUMP -/
  n : BitVec 9
  /-- the response word driven at `Respond` -/
  rsp : Response
  /-- the records a DUMP has emitted so far -/
  out : List Data
  deriving DecidableEq, Repr

/-- A context after reset (R40, R45). `busy`, `phase` and `out` are the spec's; every other value is DESIGN CHOICE 0 (log 6). -/
def Context.idle : Context where
  busy := false
  cmd := 0
  phase := 0
  b := 0
  t := 0
  m := 0
  req := false
  k := 0
  n := 0
  rsp := ⟨0, 0⟩
  out := []

/-- The signals the platform and the pads drive into GLC (R44). -/
structure Inputs where
  /-- `cfg_unsafe`, sampled at reset only (R24, R240) -/
  cfgUnsafe : Bool
  /-- `chip_match` (R142) -/
  chipMatch : Bool
  /-- `chip_gated` (R142) -/
  chipGated : Bool
  /-- `chip_rev` (R142) -/
  chipRev : Byte
  /-- the arbiter's answer to the next request (R72); `none` is a free value (log 9) -/
  arbiter : Option Bool
  /-- the level at each pad (R83); `none` is a free value (log 8) -/
  pads : Vector (Option Bool) 256
  deriving DecidableEq, Repr

/-- Inputs nothing drives: low (DESIGN CHOICE, log 10; "0 when the strap is not driven", R24), and the draws free. -/
def Inputs.undriven : Inputs where
  cfgUnsafe := false
  chipMatch := false
  chipGated := false
  chipRev := 0
  arbiter := none
  pads := Vector.replicate 256 none

/-- One turn of one agent (R20, R75). -/
inductive Event where
  /-- context `c` moves: one micro-step of its command, or `Issue` of its caller's next one (R14, R90) -/
  | run (c : Nat)
  /-- the level at the pad of pin `i` changes (R82, R83) -/
  | pad (i : Byte) (level : Option Bool)
  /-- the arbiter's next answer changes (R72) -/
  | arbiter (answer : Option Bool)
  /-- the platform drives the chip-identification inputs (R142) -/
  | chip (chipMatch chipGated : Bool) (chipRev : Byte)
  /-- the operator drives the strap (R24) -/
  | strap (level : Bool)
  /-- GLC's reset input (R240) -/
  | reset
  /-- another agent writes a GPIO byte, where `EnvStep` lets it (R82) -/
  | envGpio (i v : Byte)
  /-- another agent writes an IOMUX byte, where `EnvStep` lets it (R82) -/
  | envIomux (i v : Byte)
  /-- another agent writes the index latch, where `EnvStep` lets it (R82, R252) -/
  | envPmidx (v : Byte)
  /-- another agent writes a PM register, where `EnvStep` lets it (R82) -/
  | envPmreg (k v : Byte)
  /-- the chipset's own reset (R242); the arguments are the unspecified contents it leaves -/
  | chipsetReset (gpio iomux pmreg : List Host.Cell) (pmidx : Byte)
  deriving DecidableEq, Repr

/-- The machine: spec/10_state.md sections 1 to 4, the platform's inputs, and the model's own fields. -/
structure State where
  /-- `GPIO_BASE` (R21) -/
  gpioBase : Base
  /-- `IOMUX_BASE` (R22) -/
  iomuxBase : Base
  /-- `CONSTRUCTED` (R23) -/
  constructed : Bool
  /-- `OVERRIDE` (R24), the one mode bit (R218) -/
  override : Bool
  /-- `LOCK` (R25): `none` is free, `some c` is held(c) -/
  lock : Option Nat
  /-- `GPIO_RSV` (R26) -/
  gpioRsv : Bool
  /-- `IOMUX_RSV` (R26) -/
  iomuxRsv : Bool
  /-- `LOC_RAW` (R27) -/
  locRaw : BitVec 32
  /-- `ORIG_VALID[i]` (R33) -/
  origValid : Vector Bool 256
  /-- `ORIG_VAL[i]` (R33) -/
  origVal : Vector Byte 256
  /-- `GPIO[i]` (R30), the stored bits; the input bit is no storage and reads 0 here -/
  gpio : Memory
  /-- `IOMUX[i]` (R32) -/
  iomux : Memory
  /-- `PMIDX` (R35) -/
  pmidx : Byte
  /-- `PMREG[k]` (R35) -/
  pmreg : Memory
  /-- the registers of each caller context (R40); the length is NCTX (R9, R221) -/
  ctxs : List Context
  /-- the platform's inputs (R44) -/
  inputs : Inputs
  /-- the parameters (R9, R44); no step changes them (log 1) -/
  params : Params
  /-- MODEL: the context whose micro-step is running (log 3) -/
  cur : Nat
  /-- MODEL: the turns to come, first one next; when it is empty the contexts take turns (log 3) -/
  agenda : List Event
  /-- MODEL: for each context, the command words its caller has still to issue (R90; log 4) -/
  callers : List (List Word)
  /-- MODEL: how many free values have been drawn (log 8, log 9) -/
  draws : Nat
  deriving DecidableEq, Repr

/-- A step that has no successor. No instruction reaches one of these from a state that meets the invariant of Safety.lean. -/
inductive Fault where
  /-- Raised by MemRead or MemWrite at an address that is in neither bank (R67: "GLC reads no other address"; R68). Safe: the model
  stops where the spec gives no access (log 15). -/
  | unmappedAddress (a : Nat)
  /-- Raised by IoRead or IoWrite at a port that is not the one of the two R63 gives that access. Safe (log 15). -/
  | unmappedPort (port : BitVec 16)
  /-- Raised by `Release(c)` when `c` does not hold the lock (R77: "requires `LOCK = held(c)`"). A stuck state. Safe (log 13). -/
  | releaseNotHeld
  /-- Raised when a context's phase is no row of its command's table (R41: "only takes the values its tables name"). A stuck state.
  Safe (log 14). -/
  | phaseOutsideTable (phase : BitVec 4)
  deriving DecidableEq, Repr

/-- A step the model gives no meaning. -/
inductive Refusal where
  /-- Raised by `exec` for an instruction that has no meaning yet; none is left. Safe. -/
  | notModelled (mnemonic : String)
  deriving DecidableEq, Repr

/-- The outcome of one step of this machine. -/
abbrev Result := Host.Outcome State Fault Refusal

/-- The machine right after reset (R45, R240). The registers R45 leaves unspecified and the device registers are DESIGN CHOICE 0
(log 6, log 7), there are two contexts (log 5), nothing is driven (log 10), and no command waits (log 4). -/
def State.reset : State where
  gpioBase := 0
  iomuxBase := 0
  constructed := false
  override := false
  lock := none
  gpioRsv := false
  iomuxRsv := false
  locRaw := 0
  origValid := Vector.replicate 256 false
  origVal := Vector.replicate 256 0
  gpio := []
  iomux := []
  pmidx := 0
  pmreg := []
  ctxs := [Context.idle, Context.idle]
  inputs := Inputs.undriven
  params := Params.default
  cur := 0
  agenda := []
  callers := [[], []]
  draws := 0

end Sys2Proof.Machine
end

