-- ==== Sys2Proof/Machine/Flags.lean ====
section
/-! DEFINITION. The condition outputs of GLC. There are no flags that outlive a command (spec/10_state.md R42): the only condition
output is the 4-bit status of a response, with the codes of 60_exceptions.md R210. -/

namespace Sys2Proof.Machine

/-- The status codes of R210. Codes 11 to 15 are never driven. -/
def statusCode : Status → BitVec 4
  | .ok => 0
  | .discoveryFailed => 1
  | .notMemoryMapped => 2
  | .regionUnavailable => 3
  | .ownershipConflict => 4
  | .unsafeDirectionChange => 5
  | .illegalCommand => 6
  | .notReady => 7
  | .notRequested => 8
  | .unsupportedChip => 9
  | .alreadyConstructed => 10

end Sys2Proof.Machine
end

