-- ==== Sys2Proof/Machine/Operands.lean ====
section
/-! DEFINITION. The operands of the commands and the values they return: field masks (spec/00_scope.md R13), effective addresses
(20_memory.md R65), result numbers (30_encoding.md R99), response data (R98) and the diagnostics record (43_diagnostics.md R191). -/

namespace Sys2Proof.Machine

/-- One bit of a byte. -/
def bitMask (k : Nat) : Byte := 1#8 <<< k

/-- `M_OEB` (R13). -/
def maskOeb (l : Layout) : Byte := bitMask l.oebBit

/-- `M_OUT` (R13). -/
def maskOut (l : Layout) : Byte := bitMask l.outBit

/-- `M_IN` (R13). -/
def maskIn (l : Layout) : Byte := bitMask l.inBit

/-- `M_STICKY` (R13). -/
def maskSticky (l : Layout) : Byte := bitMask l.stickyBit

/-- `M_OWN` (R13). -/
def maskOwn (l : Layout) : Byte := 3#8 <<< l.ownLsb

/-- `M_PULL` (R13). -/
def maskPull (l : Layout) : Byte := 3#8 <<< l.pullLsb

/-- `M_MUX` (R13), of the IOMUX byte. -/
def maskMux (l : Layout) : Byte := 3#8 <<< l.muxLsb

/-- `GPIO_BASE + i` (R65), a natural number: no wrap (R66). -/
def gpioAddr (s : State) (i : Nat) : Nat := s.gpioBase.toNat + i

/-- `IOMUX_BASE + i` (R65). -/
def iomuxAddr (s : State) (i : Nat) : Nat := s.iomuxBase.toNat + i

/-- Ownership numbers of R99. -/
def ownershipNumber : Ownership → BitVec 2
  | .none => 0
  | .embeddedController => 1
  | .host => 2
  | .invalid => 3

/-- Pull numbers of R99: the order of the source's list, not the field codes. -/
def pullNumber : Pull → BitVec 2
  | .noPull => 0
  | .pullUp => 1
  | .pullDown => 2
  | .invalid => 3

/-- Function numbers of R99. -/
def muxNumber : MuxFn → BitVec 2
  | .fn0 => 0
  | .fn1 => 1
  | .fn2 => 2
  | .fn3 => 3

/-- Level numbers of R99. -/
def levelNumber : Level → BitVec 1
  | .low => 0
  | .high => 1

/-- Direction numbers of R99. -/
def directionNumber : Direction → BitVec 1
  | .output => 0
  | .input => 1

/-- A field of response data whose lowest bit is bit `at` (R98, R191); "bits of `data` not named are 0" (R97). -/
def placed (lo : Nat) {w : Nat} (v : BitVec w) : Data := v.setWidth 64 <<< lo

/-- `{c.t, c.b}`, the data of UNSAFE_DIRECTION_CHANGE (R98): the current byte below the target byte. -/
def targetAndCurrent (t b : Byte) : Data := placed 8 t ||| placed 0 b

/-- The data of a successful INIT (R98). -/
def basesData (gpioBase iomuxBase : Base) : Data := placed 32 (iomuxBase.setWidth 32) ||| placed 0 (gpioBase.setWidth 32)

/-- The data of REGION_UNAVAILABLE (R98): the base denied, and which region it is, 0 for GPIO, 1 for IOMUX. -/
def deniedData (base : Base) (which : BitVec 1) : Data := placed 63 which ||| placed 0 base

end Sys2Proof.Machine
end

