-- ==== Sys2Proof/Machine/Ops.lean ====
section
/-! DEFINITION. The primitives of spec/00_scope.md R12: byte files, the two buses, the region arbiter, the lock, the response and
`raise`, and the dispatch checks of 30_encoding.md R95. Each meaning is written over these. -/

namespace Sys2Proof.Machine

/-! ### Byte files -/

/-- What an unlisted address of a byte file reads as. DESIGN CHOICE: the spec gives no contents (R242; log 7). -/
def Memory.unlisted : Byte := 0

/-- The byte at an address. -/
def Memory.read : Memory → Nat → Byte
  | [], _ => Memory.unlisted
  | (k, v) :: m, a => if k = a then v else Memory.read m a

/-- The file without an entry for an address. -/
def Memory.erase (m : Memory) (a : Nat) : Memory := m.filter fun c => c.1 ≠ a

/-- A new entry, before the first entry of a higher address. -/
def Memory.insert : Memory → Nat → Byte → Memory
  | [], a, v => [(a, v)]
  | (k, w) :: m, a, v => if a < k then (a, v) :: (k, w) :: m else (k, w) :: Memory.insert m a v

/-- The file after a byte is stored. A byte equal to what an unlisted address reads as leaves no entry. -/
def Memory.write (m : Memory) (a : Nat) (v : Byte) : Memory :=
  if v = Memory.unlisted then m.erase a else (m.erase a).insert a v

/-- The canonical form: addresses strictly rising, no entry equal to what an unlisted address reads as. -/
abbrev Memory.wf (m : Memory) : Prop :=
  m.Pairwise (fun c d => c.1 < d.1) ∧ ∀ c ∈ m, c.2 ≠ Memory.unlisted

/-- A file of 256 registers given by its bytes. -/
def Memory.tabulate (f : Nat → Byte) : Memory :=
  (List.range 256).foldl (fun m i => m.write i (f i)) []

/-! ### Single writes -/

/-- `LOCK <- l` (R25). -/
def State.setLock (s : State) (l : Option Nat) : State := { s with lock := l }

/-- `PMIDX <- v` (R35). -/
def State.setPmidx (s : State) (v : Byte) : State := { s with pmidx := v }

/-- `LOC_RAW <- v` (R27). -/
def State.setLocRaw (s : State) (v : BitVec 32) : State := { s with locRaw := v }

/-- `GPIO_BASE <- g; IOMUX_BASE <- m` (R21, R22). -/
def State.setBases (s : State) (g m : Base) : State := { s with gpioBase := g, iomuxBase := m }

/-- `GPIO_RSV <- v` (R26). -/
def State.setGpioRsv (s : State) (v : Bool) : State := { s with gpioRsv := v }

/-- `IOMUX_RSV <- v` (R26). -/
def State.setIomuxRsv (s : State) (v : Bool) : State := { s with iomuxRsv := v }

/-- `CONSTRUCTED <- v` (R23). -/
def State.setConstructed (s : State) (v : Bool) : State := { s with constructed := v }

/-- One more free value has been drawn (log 8, log 9). -/
def State.drew (s : State) : State := { s with draws := s.draws + 1 }

/-- Context `c` is the running one (log 3). -/
def State.setCur (s : State) (c : Nat) : State := { s with cur := c }

/-- The turns to come (log 3). -/
def State.setAgenda (s : State) (a : List Event) : State := { s with agenda := a }

/-- The words the callers have still to issue (log 4). -/
def State.setCallers (s : State) (ws : List (List Word)) : State := { s with callers := ws }

/-- The platform's inputs (R44). -/
def State.setInputs (s : State) (i : Inputs) : State := { s with inputs := i }

/-! ### The moving context -/

/-- The registers of context `c` (R40). -/
def State.ctx (s : State) (c : Nat) : Context := s.ctxs.getD c Context.idle

/-- The registers of the context whose micro-step is running. -/
def State.self (s : State) : Context := s.ctx s.cur

/-- Write the registers of the running context. -/
def State.upd (s : State) (f : Context → Context) : State := { s with ctxs := s.ctxs.set s.cur (f s.self) }

/-- `pc <- p` (R12, R41). -/
def State.goto (s : State) (p : BitVec 4) : State := s.upd fun c => { c with phase := p }

/-! ### Responses and errors -/

/-- `Respond(c, status, data)` (R97): drive the response, end the command. -/
def State.respond (s : State) (st : Status) (data : Data) : State :=
  s.upd fun c => { c with rsp := ⟨statusCode st, data⟩, busy := false }

/-- `raise E(info)` (R12, R214), the ONE shared way to take an error: if the context holds the lock it is freed; then Respond. There
is no saved state, no vector and no return (R214, R215). -/
def State.raise (s : State) (st : Status) (info : Data) : State :=
  (s.setLock (if s.lock = some s.cur then none else s.lock)).respond st info

/-- The answer to a word that matches no row (R94). -/
def State.illegalCommand (s : State) (w : Word) : State := s.respond .illegalCommand (placed 0 w)

/-- The dispatch check of the commands that need the controller (R95). -/
def needsController (s : State) (next : Result) : Result :=
  if s.constructed then next else .next (s.respond .notReady 0)

/-- The dispatch check of INIT (R95, R151). -/
def needsNoController (s : State) (next : Result) : Result :=
  if s.constructed then .next (s.respond .alreadyConstructed 0) else next

/-! ### The lock -/

/-- `Acquire(c)` (R77) and what the same micro-step does after it. While the lock is not free the step is not enabled: the context is
held and nothing changes (log 12). -/
def acquire (s : State) (next : State → Result) : Result :=
  if s.lock = none then next (s.setLock (some s.cur)) else .next s

/-- `Release(c)` (R77) and what the same micro-step does after it. -/
def release (s : State) (next : State → Result) : Result :=
  if s.lock = some s.cur then next (s.setLock none) else .fault .releaseNotHeld

/-! ### The I/O port bus -/

/-- `IoWrite(port, v)` (R63): only the index port is ever written. -/
def ioWrite (s : State) (port : BitVec 16) (v : Byte) (next : State → Result) : Result :=
  if port = s.params.pmIndexPort then next (s.setPmidx v) else .fault (.unmappedPort port)

/-- `IoRead(port)` (R63): only the data port is ever read; it returns `PMREG[PMIDX]` and changes nothing. -/
def ioRead (s : State) (port : BitVec 16) (next : Byte → State → Result) : Result :=
  if port = s.params.pmDataPort then next (s.pmreg.read s.pmidx.toNat) s else .fault (.unmappedPort port)

/-! ### The memory bus -/

/-- A byte register of one of the two banks. -/
inductive BankReg where
  | gpio (i : Nat)
  | iomux (i : Nat)
  deriving DecidableEq, Repr

/-- Which register a physical address names (R64): `GPIO[i]` at `GPIO_BASE + i`, `IOMUX[i]` at `IOMUX_BASE + i`. -/
def State.locate (s : State) (a : Nat) : Option BankReg :=
  if s.gpioBase.toNat ≤ a ∧ a < s.gpioBase.toNat + Config.nPin then some (.gpio (a - s.gpioBase.toNat))
  else if s.iomuxBase.toNat ≤ a ∧ a < s.iomuxBase.toNat + Config.nPin then some (.iomux (a - s.iomuxBase.toNat))
  else none

/-- The stored bits of `GPIO[i]`; the input bit is no storage (R30) and is 0 here. -/
def State.gpioStored (s : State) (i : Nat) : Byte := s.gpio.read i &&& ~~~maskIn s.params.layout

/-- The stored byte at a physical address, before any sampling; `none` outside the banks. -/
def State.storedAt (s : State) (a : Nat) : Option Byte :=
  match s.locate a with
  | some (.gpio i) => some (s.gpioStored i)
  | some (.iomux i) => some (s.iomux.read i)
  | none => none

/-- The level a read of `GPIO[i]` samples (R83): the pad's, a free value where nothing drives it; with `PadLoopback` an
output-enabled pin's level is the value it drives. -/
def State.padSample (s : State) (i : Nat) : Bool :=
  if s.params.padLoopback && !(s.gpio.read i).getLsbD s.params.layout.oebBit then
    (s.gpio.read i).getLsbD s.params.layout.outBit
  else
    (s.inputs.pads[i]?.join).getD (Config.padLevel s.draws i)

/-- The byte a read of `GPIO[i]` returns (R67): the stored bits and the sampled level. -/
def State.gpioSampled (s : State) (i : Nat) : Byte :=
  s.gpioStored i ||| (if s.padSample i then maskIn s.params.layout else 0)

/-- `MemRead(a, 1)` (R67): a GPIO byte with its level sampled by this read, or an IOMUX byte. It changes no state of the spec. -/
def memRead (s : State) (a : Nat) (next : Byte → State → Result) : Result :=
  match s.locate a with
  | some (.gpio i) => next (s.gpioSampled i) s.drew
  | some (.iomux i) => next (s.iomux.read i) s
  | none => .fault (.unmappedAddress a)

/-- `GPIO[i]` takes a written byte (R68): the seven stored bits; the input bit of the value is dropped. -/
def State.storeGpio (s : State) (i : Nat) (v : Byte) : State :=
  { s with gpio := s.gpio.write i (v &&& ~~~maskIn s.params.layout) }

/-- `MemWrite(a, 1, v)` (R68). "GLC writes no other address: never an IOMUX byte, never outside the banks." -/
def memWrite (s : State) (a : Nat) (v : Byte) (next : State → Result) : Result :=
  match s.locate a with
  | some (.gpio i) => next (s.storeGpio i v)
  | some (.iomux _) => .fault (.unmappedAddress a)
  | none => .fault (.unmappedAddress a)

/-! ### The region arbiter -/

/-- The arbiter's answer to `RegionReserve(base, size)` (R72): the platform's, a free value where nothing gives it; always denied
when the range is not wholly below 2^32 (R66). -/
def State.arbiterGrants (s : State) (base size : Nat) : Bool :=
  base + size ≤ 2 ^ 32 && s.inputs.arbiter.getD (Config.arbiterGrants s.draws base size)

/-- `RegionReserve(base, size)` (R72). -/
def regionReserve (s : State) (base : Base) (next : Bool → State → Result) : Result :=
  next (s.arbiterGrants base.toNat s.params.bankSize) s.drew

/-- `RegionRelease(GPIO_BASE, BANK_SIZE); GPIO_RSV <- 0` (R72: a release always succeeds). -/
def State.releaseGpioRegion (s : State) : State := s.setGpioRsv false

/-- `RegionRelease(IOMUX_BASE, BANK_SIZE); IOMUX_RSV <- 0`. -/
def State.releaseIomuxRegion (s : State) : State := s.setIomuxRsv false

/-! ### The original-value table -/

/-- `ORIG_VALID[i]` (R33). -/
def State.valid (s : State) (i : Nat) : Bool := s.origValid[i]?.getD false

/-- `ORIG_VAL[i]` (R33). -/
def State.saved (s : State) (i : Nat) : Byte := s.origVal[i]?.getD 0

/-- `ORIG_VAL[i] <- b; ORIG_VALID[i] <- 1`, in one step (R34). -/
def State.saveOriginal (s : State) (i : Nat) (b : Byte) : State :=
  { s with origVal := s.origVal.setIfInBounds i b, origValid := s.origValid.setIfInBounds i true }

/-- `ORIG_VALID[i] <- 0` (R33). -/
def State.dropOriginal (s : State) (i : Nat) : State := { s with origValid := s.origValid.setIfInBounds i false }

/-- A phase that is no row of the command's table (R41; log 14). -/
def noSuchPhase (s : State) : Result := .fault (.phaseOutsideTable s.self.phase)

end Sys2Proof.Machine
end

