-- ==== Sys2Proof/Machine/Codec.lean ====
section
/-! DEFINITION. The Register Codec: the seven pure functions of spec/40_codec.md R121 to R127 and the seven commands that reach them.
Bit positions and code tables are the parameters of 00_scope.md R9. -/

namespace Sys2Proof.Machine

/-- `decode_ownership(b)` (R121), by the table `OWN_CODE`. -/
def decodeOwnership (p : Params) (b : Byte) : Ownership := p.ownCode.get (b.extractLsb' p.layout.ownLsb 2).toFin

/-- `decode_pull(b)` (R122), by the table `PULL_CODE`. -/
def decodePull (p : Params) (b : Byte) : Pull := p.pullCode.get (b.extractLsb' p.layout.pullLsb 2).toFin

/-- `decode_mux(b)` (R123): all four selector values are valid. -/
def decodeMux (p : Params) (b : Byte) : MuxFn :=
  match (b.extractLsb' p.layout.muxLsb 2).toNat with
  | 0 => .fn0
  | 1 => .fn1
  | 2 => .fn2
  | _ => .fn3

/-- `is_output_enabled(b)` (R124): true when the inverted enable bit is clear. -/
def isOutputEnabled (p : Params) (b : Byte) : Bool := !b.getLsbD p.layout.oebBit

/-- The direction of a pin (R124): Output when it is output-enabled. -/
def directionOf (p : Params) (b : Byte) : Direction := if isOutputEnabled p b then .output else .input

/-- `read_level(b)` (R125): the input bit, never the output bit. -/
def readLevel (p : Params) (b : Byte) : Level := if b.getLsbD p.layout.inBit then .high else .low

/-- `set_output(b, v)` (R126): enable active, output value `v`, all other bits kept. -/
def setOutput (p : Params) (b : Byte) (v : Bool) : Byte :=
  (b &&& ~~~(maskOeb p.layout ||| maskOut p.layout)) ||| (if v then maskOut p.layout else 0)

/-- `set_input(b)` (R127): enable inactive, all other bits kept, `OUT` among them. -/
def setInput (p : Params) (b : Byte) : Byte := b ||| maskOeb p.layout

/-- What every codec command does (R120): one micro-step, status OK, no check, no bus, no lock. -/
def respondCodec (s : State) (data : Data) : Result :=
  match s.self.phase.toNat with
  | 0 => .next (s.respond .ok data)
  | _ => noSuchPhase s

/-- DOWN `b` (R121). -/
def execDown (b : Byte) (s : State) : Result := respondCodec s (placed 0 (ownershipNumber (decodeOwnership s.params b)))

/-- DPULL `b` (R122). -/
def execDpull (b : Byte) (s : State) : Result := respondCodec s (placed 0 (pullNumber (decodePull s.params b)))

/-- DMUX `b` (R123). -/
def execDmux (b : Byte) (s : State) : Result := respondCodec s (placed 0 (muxNumber (decodeMux s.params b)))

/-- ISOUT `b` (R124). -/
def execIsout (b : Byte) (s : State) : Result := respondCodec s (placed 0 (BitVec.ofBool (isOutputEnabled s.params b)))

/-- RLVL `b` (R125). -/
def execRlvl (b : Byte) (s : State) : Result := respondCodec s (placed 0 (levelNumber (readLevel s.params b)))

/-- SOUT `b`, `v` (R126). -/
def execSout (b : Byte) (v : Bool) (s : State) : Result := respondCodec s (placed 0 (setOutput s.params b v))

/-- SIN `b` (R127). -/
def execSin (b : Byte) (s : State) : Result := respondCodec s (placed 0 (setInput s.params b))

end Sys2Proof.Machine
end

