-- ==== Sys2Proof/Machine/Diagnostics.lean ====
section
/-! DEFINITION. The diagnostics register reader of spec/43_diagnostics.md: the record (R191), the gap rule (R192), the
general-purpose-event index (R193), and DIAG (R194) and DUMP (R195). It never writes (R198) and takes no lock (R199). -/

namespace Sys2Proof.Machine

/-- The four index gaps (R192), bounds inclusive. -/
def inGap (i : Nat) : Bool :=
  (68 ≤ i && i ≤ 95) || (120 ≤ i && i ≤ 127) || (151 ≤ i && i ≤ 159) || (229 ≤ i && i ≤ 255)

/-- `Skip(i)` (R192): in a gap and not requested. -/
def State.skip (s : State) (i : Nat) : Bool := inGap i && !s.valid i

/-- Pins 96 to 119 report a general-purpose-event index (R193). -/
def hasGpe (i : Nat) : Bool := 96 ≤ i && i ≤ 119

/-- The general-purpose-event index (R193). -/
def gpeIndex (i : Nat) : BitVec 5 := if hasGpe i then BitVec.ofNat 5 (i - 96) else 0

/-- The record of a reported pin (R191): `r` is the requested label, `g` the GPIO byte read, `m` the IOMUX byte read. -/
def record (p : Params) (i : Nat) (r : Bool) (g m : Byte) : Data :=
  placed 0 (BitVec.ofNat 8 i)
    ||| placed 8 (BitVec.ofBool r)
    ||| placed 10 (directionNumber (directionOf p g))
    ||| placed 11 (levelNumber (readLevel p g))
    ||| placed 12 (pullNumber (decodePull p g))
    ||| placed 14 (muxNumber (decodeMux p m))
    ||| placed 16 (ownershipNumber (decodeOwnership p g))
    ||| placed 18 (BitVec.ofBool (decodeOwnership p g ≠ .none))
    ||| placed 19 (BitVec.ofBool (hasGpe i))
    ||| placed 20 (gpeIndex i)
    ||| placed 32 g
    ||| placed 40 m

/-- The record of a skipped pin (R191): every field but `pin` and `skipped` is 0. -/
def skippedRecord (i : Nat) : Data := placed 0 (BitVec.ofNat 8 i) ||| placed 9 1#1

/-- DIAG `i` (R194): three reads that are no snapshot (R246). -/
def execDiag (i : Byte) (s : State) : Result :=
  match s.self.phase.toNat with
  | 0 =>
    needsController s <|
      if s.skip i.toNat then .next (s.respond .ok (skippedRecord i.toNat))
      else .next (s.upd fun c => { c with req := s.valid i.toNat, phase := 1 })
  | 1 => memRead s (gpioAddr s i.toNat) fun b s => .next (s.upd fun c => { c with b := b, phase := 2 })
  | 2 =>
    memRead s (iomuxAddr s i.toNat) fun m s =>
      .next ((s.upd fun c => { c with m := m }).respond .ok (record s.params i.toNat s.self.req s.self.b m))
  | _ => noSuchPhase s

/-- DUMP (R195): the records of the pins not skipped, in ascending order, each pin read at its own time. -/
def execDump (s : State) : Result :=
  match s.self.phase.toNat with
  | 0 => needsController s (.next (s.upd fun c => { c with k := 0, n := 0, out := [], phase := 1 }))
  | 1 =>
    let k := s.self.k.toNat
    if k = Config.nPin then .next (s.respond .ok (placed 0 s.self.n))
    else if s.skip k then .next (s.upd fun c => { c with k := c.k + 1 })
    else .next (s.upd fun c => { c with req := s.valid k, phase := 2 })
  | 2 => memRead s (gpioAddr s s.self.k.toNat) fun b s => .next (s.upd fun c => { c with b := b, phase := 3 })
  | 3 =>
    memRead s (iomuxAddr s s.self.k.toNat) fun m s =>
      .next (s.upd fun c =>
        { c with
          m := m
          out := c.out ++ [record s.params c.k.toNat c.req c.b m]
          n := c.n + 1
          k := c.k + 1
          phase := 1 })
  | _ => noSuchPhase s

end Sys2Proof.Machine
end

