-- ==== Sys2Proof/Machine/Lifecycle.lean ====
section
/-! DEFINITION. The MMIO Base Locator and the controller's lifecycle: INIT (spec/41_locator_lifecycle.md R141 to R149) and TEARDOWN
(R150). -/

namespace Sys2Proof.Machine

/-- `REV_MIN` (R8): the lowest supported revision of the one gated device id. -/
def revMin : Byte := 0x40

/-- `ChipSupported()` (R142); the comparison is unsigned. -/
def chipSupported (p : Inputs) : Bool := p.chipMatch && (!p.chipGated || revMin ≤ p.chipRev)

/-- The 8-bit index of the `k`-th of the four base-address registers (R62, R143). -/
def locatorIndex (p : Params) (k : BitVec 9) : Byte := BitVec.ofNat 8 (p.pmBaseReg + k.toNat)

/-- `LOC_RAW | (zext_32(d) << (8 * k))` (R144): little-endian assembly. -/
def assembleByte (raw : BitVec 32) (k : BitVec 9) (d : Byte) : BitVec 32 := raw ||| d.setWidth 32 <<< (8 * k.toNat)

/-- `LOC_RAW & 0xFFFFFFFC` (R145). -/
def maskedBase (raw : BitVec 32) : BitVec 32 := raw &&& 0xFFFFFFFC

/-- `BASE + offset` (R146), a natural number that 33 bits hold (R66). -/
def derivedBase (raw : BitVec 32) (offset : Nat) : Base := BitVec.ofNat 33 ((maskedBase raw).toNat + offset)

/-- INIT (R141). -/
def execInit (s : State) : Result :=
  match s.self.phase.toNat with
  | 0 =>
    needsNoController s <|
      if chipSupported s.inputs then .next ((s.setLocRaw 0).upd fun c => { c with k := 0, phase := 1 })
      else .next (s.respond .unsupportedChip 0)
  | 1 => ioWrite s s.params.pmIndexPort (locatorIndex s.params s.self.k) fun s => .next (s.goto 2)
  | 2 =>
    ioRead s s.params.pmDataPort fun d s =>
      let k := s.self.k
      .next ((s.setLocRaw (assembleByte s.locRaw k d)).upd fun c =>
        { c with k := k + 1, phase := if (k + 1).toNat < 4 then 1 else 3 })
  | 3 =>
    if s.locRaw = 0 ∨ s.locRaw = 0xFFFFFFFF then .next (s.raise .discoveryFailed (placed 0 s.locRaw))
    else if s.locRaw.extractLsb' 0 2 ≠ 0b01#2 then .next (s.raise .notMemoryMapped (placed 0 s.locRaw))
    else
      .next ((s.setBases (derivedBase s.locRaw s.params.gpioOffset) (derivedBase s.locRaw s.params.iomuxOffset)).goto 4)
  | 4 =>
    regionReserve s s.gpioBase fun granted s =>
      if granted then .next ((s.setGpioRsv true).goto 5)
      else .next (s.raise .regionUnavailable (deniedData s.gpioBase 0))
  | 5 =>
    regionReserve s s.iomuxBase fun granted s =>
      if granted then .next ((s.setIomuxRsv true).goto 7) else .next (s.goto 6)
  | 6 => .next (s.releaseGpioRegion.raise .regionUnavailable (deniedData s.iomuxBase 1))
  | 7 => .next ((s.setConstructed true).respond .ok (basesData s.gpioBase s.iomuxBase))
  | _ => noSuchPhase s

/-- TEARDOWN (R150). -/
def execTeardown (s : State) : Result :=
  match s.self.phase.toNat with
  | 0 =>
    needsController s <| acquire s fun s =>
      .next ((s.setConstructed false).upd fun c => { c with k := 0, n := 0, phase := 1 })
  | 1 =>
    let k := s.self.k.toNat
    if k = Config.nPin then .next (s.goto 2)
    else if s.valid k then
      memWrite s (gpioAddr s k) (s.saved k) fun s =>
        .next ((s.dropOriginal k).upd fun c => { c with n := c.n + 1, k := c.k + 1 })
    else .next (s.upd fun c => { c with k := c.k + 1 })
  | 2 => release s fun s => .next (s.goto 3)
  | 3 => .next (s.releaseIomuxRegion.goto 4)
  | 4 => .next (s.releaseGpioRegion.respond .ok (placed 0 s.self.n))
  | _ => noSuchPhase s

end Sys2Proof.Machine
end

