-- ==== Sys2Proof/Machine/Line.lean ====
section
/-! DEFINITION. The Line Controller: REQ, FREE, GETL, GETD, SETL, DOUT and DIN, each a phase table of spec/42_line_controller.md. A
meaning is one micro-step: the row that the running context's phase names. Only REQ looks at the ownership field, and only REQ and
FREE at the table (R172). -/

namespace Sys2Proof.Machine

/-- `Release(c); Respond(c, OK, data)`: the last row of a locked command that succeeds. -/
def releaseOk (s : State) (data : Data) : Result := release s fun s => .next (s.respond .ok data)

/-- `c.b <- MemRead(A, 1); pc <- p`: the read row of a locked command on pin `i`. -/
def readPin (i : Byte) (p : BitVec 4) (s : State) : Result :=
  memRead s (gpioAddr s i.toNat) fun b s => .next (s.upd fun c => { c with b := b, phase := p })

/-- `c.t <- t; MemWrite(A, 1, c.t); pc <- p`: the write row of a locked command on pin `i`. -/
def writePin (i : Byte) (t : Byte) (p : BitVec 4) (s : State) : Result :=
  memWrite s (gpioAddr s i.toNat) t fun s => .next (s.upd fun c => { c with t := t, phase := p })

/-- The override gate of DOUT and DIN (R162, R168, R169): the target equals the current byte, so no write is needed; or the change
is refused; or it is written. -/
def changeDirection (i : Byte) (t : Byte) (p : BitVec 4) (s : State) : Result :=
  if t = s.self.b then releaseOk (s.upd fun c => { c with t := t }) 0
  else if !s.override then
    .next ((s.upd fun c => { c with t := t }).raise .unsafeDirectionChange (targetAndCurrent t s.self.b))
  else writePin i t p s

/-- REQ `i` (R163, R173). -/
def execReq (i : Byte) (s : State) : Result :=
  match s.self.phase.toNat with
  | 0 => needsController s (acquire s fun s => .next (s.goto 1))
  | 1 => readPin i 2 s
  | 2 =>
    if decodeOwnership s.params s.self.b = .embeddedController then
      .next (s.raise .ownershipConflict (placed 0 s.self.b))
    else releaseOk (s.saveOriginal i.toNat s.self.b) (placed 0 s.self.b)
  | _ => noSuchPhase s

/-- FREE `i` (R164): restores the saved byte verbatim; not subject to the override gate (R254). -/
def execFree (i : Byte) (s : State) : Result :=
  match s.self.phase.toNat with
  | 0 => needsController s (acquire s fun s => .next (s.goto 1))
  | 1 => if s.valid i.toNat then writePin i (s.saved i.toNat) 2 s else .next (s.raise .notRequested 0)
  | 2 => releaseOk (s.dropOriginal i.toNat) (placed 0 s.self.t)
  | _ => noSuchPhase s

/-- GETL `i` (R165): lock-free, the input bit for an output pin too. -/
def execGetl (i : Byte) (s : State) : Result :=
  match s.self.phase.toNat with
  | 0 =>
    needsController s <| memRead s (gpioAddr s i.toNat) fun b s =>
      .next ((s.upd fun c => { c with b := b }).respond .ok (placed 0 (levelNumber (readLevel s.params b))))
  | _ => noSuchPhase s

/-- GETD `i` (R166): lock-free. -/
def execGetd (i : Byte) (s : State) : Result :=
  match s.self.phase.toNat with
  | 0 =>
    needsController s <| memRead s (gpioAddr s i.toNat) fun b s =>
      .next ((s.upd fun c => { c with b := b }).respond .ok (placed 0 (directionNumber (directionOf s.params b))))
  | _ => noSuchPhase s

/-- SETL `i`, `v` (R167): on an input pin without the override the value is dropped, with status OK. -/
def execSetl (i : Byte) (v : Bool) (s : State) : Result :=
  match s.self.phase.toNat with
  | 0 => needsController s (acquire s fun s => .next (s.goto 1))
  | 1 => readPin i 2 s
  | 2 =>
    if isOutputEnabled s.params s.self.b || s.override then writePin i (setOutput s.params s.self.b v) 3 s
    else releaseOk s 0
  | 3 => releaseOk s 0
  | _ => noSuchPhase s

/-- DOUT `i`, `v` (R168): the first read and the fast path are outside the lock. -/
def execDout (i : Byte) (v : Bool) (s : State) : Result :=
  match s.self.phase.toNat with
  | 0 =>
    needsController s <| memRead s (gpioAddr s i.toNat) fun b s =>
      let s := s.upd fun c => { c with b := b }
      if isOutputEnabled s.params b then .next (s.respond .ok 0) else .next (s.goto 1)
  | 1 => acquire s fun s => .next (s.goto 2)
  | 2 => readPin i 3 s
  | 3 => changeDirection i (setOutput s.params s.self.b v) 4 s
  | 4 => releaseOk s 0
  | _ => noSuchPhase s

/-- DIN `i` (R169): no unlocked fast path. -/
def execDin (i : Byte) (s : State) : Result :=
  match s.self.phase.toNat with
  | 0 => needsController s (acquire s fun s => .next (s.goto 1))
  | 1 => readPin i 2 s
  | 2 => changeDirection i (setInput s.params s.self.b) 3 s
  | 3 => releaseOk s 0
  | _ => noSuchPhase s

end Sys2Proof.Machine
end

