-- ==== Sys2Proof/Machine/Dispatch.lean ====
section
/-! DEFINITION. One micro-step of each operation of spec/30_encoding.md R93, in the running context. -/

namespace Sys2Proof.Machine

def exec (i : Instr) (s : State) : Host.Outcome State Fault Refusal :=
  match i with
  | .req pin => Sys2Proof.Machine.execReq pin s
  | .free pin => Sys2Proof.Machine.execFree pin s
  | .getl pin => Sys2Proof.Machine.execGetl pin s
  | .getd pin => Sys2Proof.Machine.execGetd pin s
  | .setl pin v => Sys2Proof.Machine.execSetl pin v s
  | .dout pin v => Sys2Proof.Machine.execDout pin v s
  | .din pin => Sys2Proof.Machine.execDin pin s
  | .diag pin => Sys2Proof.Machine.execDiag pin s
  | .dump => Sys2Proof.Machine.execDump s
  | .init => Sys2Proof.Machine.execInit s
  | .teardown => Sys2Proof.Machine.execTeardown s
  | .down b => Sys2Proof.Machine.execDown b s
  | .dpull b => Sys2Proof.Machine.execDpull b s
  | .dmux b => Sys2Proof.Machine.execDmux b s
  | .isout b => Sys2Proof.Machine.execIsout b s
  | .rlvl b => Sys2Proof.Machine.execRlvl b s
  | .sout b v => Sys2Proof.Machine.execSout b v s
  | .sin b => Sys2Proof.Machine.execSin b s

end Sys2Proof.Machine
end

