-- ==== Sys2Proof/Machine/Schedule.lean ====
section
/-! DEFINITION. The agents of spec/10_state.md R20 and their turns: issuing a command (30_encoding.md R90), one micro-step of a
context (00_scope.md R14), the platform and the environment (20_memory.md R72, R82, R83), GLC's reset (70_reset_and_hazards.md R240)
and the chipset's (R242). -/

namespace Sys2Proof.Machine

/-! ### Contexts -/

/-- `Issue(c, w)` (R90): accept the command word `w` in context `c`. -/
def State.issue (s : State) (c : Nat) (w : Word) : State :=
  { s with ctxs := s.ctxs.set c { s.ctx c with cmd := w, busy := true, phase := 0 } }

/-- One micro-step of the command in flight in the running context. The command word is decoded at each row; a word that matches no
row of R93 is answered at its first (R94, R95). -/
def microStep (s : State) : Result :=
  match decode s.self.cmd with
  | .ok i => exec i s
  | .error _ => .next (s.illegalCommand s.self.cmd)

/-- The turn of context `c`: a micro-step when it is busy; else `Issue` of the next word of its caller, if there is one; else
nothing. A turn of a context that does not exist is nothing (R221). -/
def runContext (c : Nat) (s : State) : Result :=
  if c < s.ctxs.length then
    if (s.ctx c).busy then microStep (s.setCur c)
    else
      match s.callers.getD c [] with
      | [] => .next (s.setCur c)
      | w :: ws => .next (((s.setCur c).setCallers (s.callers.set c ws)).issue c w)
  else .next s

/-- A context has something to do. -/
def State.active (s : State) (c : Nat) : Bool := (s.ctx c).busy || !(s.callers.getD c []).isEmpty

/-- Whose turn it is when the agenda is empty: the next active context after the one that ran last, in cyclic order (log 3). -/
def State.nextTurn (s : State) : Nat :=
  (((List.range s.ctxs.length).map fun j => (s.cur + 1 + j) % s.ctxs.length).find? s.active).getD s.cur

/-! ### Reset -/

/-- GLC's reset (R240, R241): every register of GLC takes its reset value, commands in flight are dropped without a response, the
override is loaded from the strap, no bus is touched. Device registers (R242), inputs and parameters stay. -/
def State.glcReset (s : State) : State :=
  { s with
    gpioBase := 0
    iomuxBase := 0
    constructed := false
    override := s.inputs.cfgUnsafe
    lock := none
    gpioRsv := false
    iomuxRsv := false
    locRaw := 0
    origValid := Vector.replicate 256 false
    origVal := Vector.replicate 256 0
    ctxs := List.replicate s.ctxs.length Context.idle }

/-- The chipset's own reset (R242): a GPIO byte whose sticky bit is set keeps its stored bits; every other device register takes the
unspecified contents the event carries (log 18). -/
def State.chipsetReset (s : State) (gpio iomux pmreg : Memory) (pmidx : Byte) : State :=
  { s with
    gpio := Memory.tabulate fun i =>
      if s.gpioStored i &&& maskSticky s.params.layout ≠ 0 then s.gpioStored i else gpio.read i &&& ~~~maskIn s.params.layout
    iomux := Memory.tabulate iomux.read
    pmreg := Memory.tabulate pmreg.read
    pmidx := pmidx }

/-! ### Writes by other agents (R82) -/

/-- `IOMUX[i]` changes; GLC itself never writes one (R32). -/
def State.storeIomux (s : State) (i : Nat) (v : Byte) : State := { s with iomux := s.iomux.write i v }

/-- `PMREG[k]` changes; GLC itself never writes one (R63). -/
def State.storePmreg (s : State) (k : Nat) (v : Byte) : State := { s with pmreg := s.pmreg.write k v }

/-! ### Turns -/

/-- One turn of one agent. A write by another agent that `EnvStep` does not allow does not happen (R82; log 11). -/
def takeTurn (e : Event) (s : State) : Result :=
  match e with
  | .run c => runContext c s
  | .pad i level => .next (s.setInputs { s.inputs with pads := s.inputs.pads.setIfInBounds i.toNat level })
  | .arbiter answer => .next (s.setInputs { s.inputs with arbiter := answer })
  | .chip m g r => .next (s.setInputs { s.inputs with chipMatch := m, chipGated := g, chipRev := r })
  | .strap level => .next (s.setInputs { s.inputs with cfgUnsafe := level })
  | .reset => .next s.glcReset
  | .envGpio i v => .next (if s.params.envStep.gpio then s.storeGpio i.toNat v else s)
  | .envIomux i v => .next (if s.params.envStep.iomux then s.storeIomux i.toNat v else s)
  | .envPmidx v => .next (if s.params.envStep.pmidx then s.setPmidx v else s)
  | .envPmreg k v => .next (if s.params.envStep.pmreg then s.storePmreg k.toNat v else s)
  | .chipsetReset gpio iomux pmreg pmidx => .next (s.chipsetReset gpio iomux pmreg pmidx)

/-- The next turn of the agenda; when there is none, the contexts take turns (log 3). -/
def nextStep (s : State) : Result :=
  match s.agenda with
  | e :: rest => takeTurn e (s.setAgenda rest)
  | [] => runContext s.nextTurn s

/-- Context 0 has just been issued the word `w`, and the next turn is its own (log 4). -/
def placeCommand (s : State) (w : Word) : State :=
  (s.issue 0 w).setAgenda (.run 0 :: s.agenda)

end Sys2Proof.Machine
end

