-- ==== Sys2Proof/Machine/Step.lean ====
section
/-! DEFINITION. The step of the machine: one turn of one agent (spec/00_scope.md R14, 20_memory.md R75), and how the host places an
instruction where the next step runs it. -/

namespace Sys2Proof.Machine

/-- One step. -/
def step : State → Host.Outcome State Fault Refusal := nextStep

/-- `Issue(0, w)` (R90) has been done and the next turn is context 0's, so that the next step runs the command `w` (log 4). A command is
one word of 16 bits. -/
def State.withFetchWord (s : State) (nbits w : Nat) : State := placeCommand s (BitVec.ofNat 16 (w % 2 ^ nbits))

end Sys2Proof.Machine
end

