-- ==== Sys2Proof/Safety.lean ====
section
/-! DEFINITION. What a good state and a good run are, in the terms the claims use: the phase tables' extents, the sections that hold
the lock, the invariant every step keeps, the discipline the spec asks of callers (spec/70_reset_and_hazards.md R255, R256) and the
lifecycle invariant that holds under it, and a command run alone. -/

namespace Sys2Proof.Machine

/-! ### The phase tables -/

/-- The last row of each command's phase table (40_codec.md to 43_diagnostics.md). -/
def lastPhase : Instr → Nat
  | .req _ => 2
  | .free _ => 2
  | .getl _ => 0
  | .getd _ => 0
  | .setl _ _ => 3
  | .dout _ _ => 4
  | .din _ => 3
  | .diag _ => 2
  | .dump => 3
  | .init => 7
  | .teardown => 4
  | .down _ => 0
  | .dpull _ => 0
  | .dmux _ => 0
  | .isout _ => 0
  | .rlvl _ => 0
  | .sout _ _ => 0
  | .sin _ => 0

/-- The rows of each command that run with the lock held, from the row after `Acquire` to the row of `Release` (R75, R77). -/
def holdsLock : Instr → Nat → Bool
  | .req _, p => 1 ≤ p && p ≤ 2
  | .free _, p => 1 ≤ p && p ≤ 2
  | .setl _ _, p => 1 ≤ p && p ≤ 3
  | .dout _ _, p => 2 ≤ p && p ≤ 4
  | .din _, p => 1 ≤ p && p ≤ 3
  | .teardown, p => 1 ≤ p && p ≤ 2
  | .getl _, _ => false
  | .getd _, _ => false
  | .diag _, _ => false
  | .dump, _ => false
  | .init, _ => false
  | .down _, _ => false
  | .dpull _, _ => false
  | .dmux _, _ => false
  | .isout _, _ => false
  | .rlvl _, _ => false
  | .sout _ _, _ => false
  | .sin _, _ => false

/-- The loop counters stay within the bounds of R40: 0..3 in INIT's loop, 0..256 in DUMP's and TEARDOWN's; DUMP has emitted `n`
records. -/
def countersOk (i : Instr) (x : Context) : Bool :=
  match i with
  | .init => (x.phase.toNat ≠ 1 && x.phase.toNat ≠ 2) || x.k.toNat < 4
  | .dump =>
    match x.phase.toNat with
    | 0 => true
    | 1 => x.k.toNat ≤ 256 && x.n.toNat ≤ x.k.toNat && x.out.length = x.n.toNat
    | _ => x.k.toNat < 256 && x.n.toNat ≤ x.k.toNat && x.out.length = x.n.toNat
  | .teardown => x.phase.toNat ≠ 1 || (x.k.toNat ≤ 256 && x.n.toNat ≤ x.k.toNat)
  | _ => true

/-- The context runs command `i`. -/
def Context.runs (x : Context) (i : Instr) : Prop := x.busy = true ∧ decode x.cmd = .ok i

/-- The context is inside a locked section. -/
def Context.inSection (x : Context) : Bool :=
  x.busy && match decode x.cmd with
    | .ok i => holdsLock i x.phase.toNat
    | .error _ => false

/-- A busy context stands at a row of its command's table, with its counters in range (R41). -/
def Context.onTable (x : Context) : Bool :=
  !x.busy || match decode x.cmd with
    | .ok i => x.phase.toNat ≤ lastPhase i && countersOk i x
    | .error _ => x.phase = 0

/-! ### The invariant -/

/-- What holds of every state a run from reset reaches, with no premise on the callers. -/
structure Inv (s : State) : Prop where
  /-- NCTX is at least 1 (R9), and the running context is one of them. -/
  curExists : s.cur < s.ctxs.length
  /-- The lock is held by `c` exactly while `c` is inside a locked section (R77, R75). -/
  lockHeld : ∀ c, s.lock = some c ↔ c < s.ctxs.length ∧ (s.ctx c).inSection = true
  /-- Every phase is a row of its command's table (R41). -/
  onTable : ∀ c, c < s.ctxs.length → (s.ctx c).onTable = true
  /-- Status codes 11 to 15 are never driven (R210). -/
  statusDriven : ∀ c, c < s.ctxs.length → (s.ctx c).rsp.status.toNat ≤ 10
  /-- The byte files are in canonical form. -/
  gpioCanonical : s.gpio.wf
  iomuxCanonical : s.iomux.wf
  pmregCanonical : s.pmreg.wf
  /-- Every file has 256 registers (R30, R32, R35). -/
  gpioInFile : ∀ e ∈ s.gpio, e.1 < Config.nPin
  iomuxInFile : ∀ e ∈ s.iomux, e.1 < Config.nPin
  pmregInFile : ∀ e ∈ s.pmreg, e.1 < 256
  /-- The input bit is no storage (R30). -/
  inputNotStored : ∀ e ∈ s.gpio, e.2 &&& maskIn s.params.layout = 0

/-! ### The lifecycle -/

/-- A lifecycle command is in flight in context `c`. -/
def State.lifecycleIn (s : State) (c : Nat) : Prop := (s.ctx c).runs .init ∨ (s.ctx c).runs .teardown

/-- The callers' discipline of R255 and R256: at most one INIT or TEARDOWN is in flight, and while a TEARDOWN is, every other context
is idle (R140). -/
structure Orderly (s : State) : Prop where
  oneLifecycle : ∀ c d, s.lifecycleIn c → s.lifecycleIn d → c = d
  quietTeardown : ∀ c d, (s.ctx c).runs .teardown → (s.ctx d).busy = true → d = c

/-- The region of `BANK_SIZE` bytes at `base` lies wholly below 2^32 (R66). -/
def State.regionInSpace (s : State) (base : Base) : Prop := base.toNat + s.params.bankSize ≤ 2 ^ 32

/-- No pin is requested. -/
def State.tableEmpty (s : State) : Prop := ∀ j, s.valid j = false

/-- Which regions are held and whether the controller exists, at each row of INIT (R141, R147, R149). -/
structure InitStage (s : State) (p : Nat) : Prop where
  notYet : 1 ≤ p → s.constructed = false ∧ s.tableEmpty
  none : 1 ≤ p → p ≤ 4 → s.gpioRsv = false ∧ s.iomuxRsv = false
  gpioOnly : 5 ≤ p → p ≤ 6 → s.gpioRsv = true ∧ s.iomuxRsv = false ∧ s.regionInSpace s.gpioBase
  both : p = 7 → s.gpioRsv = true ∧ s.iomuxRsv = true ∧ s.regionInSpace s.gpioBase ∧ s.regionInSpace s.iomuxBase

/-- The same at each row of TEARDOWN (R150); `k` is its loop counter. -/
structure TeardownStage (s : State) (p k : Nat) : Prop where
  gone : 1 ≤ p → s.constructed = false
  stillHeld : 1 ≤ p → p ≤ 3 → s.gpioRsv = true ∧ s.iomuxRsv = true
  restoredBelow : p = 1 → ∀ j, j < k → s.valid j = false
  restoredAll : 2 ≤ p → s.tableEmpty
  gpioOnly : p = 4 → s.gpioRsv = true ∧ s.iomuxRsv = false

/-- "No partial controller is exposed" (R23, R149): what holds of every state a run reaches while callers keep the discipline. -/
structure LifecycleInv (s : State) : Prop where
  /-- Never constructed while either region is unreserved (R23), and both bases are below 2^32 (R21). -/
  built : s.constructed = true →
    s.gpioRsv = true ∧ s.iomuxRsv = true ∧ s.regionInSpace s.gpioBase ∧ s.regionInSpace s.iomuxBase
  init : ∀ c, (s.ctx c).runs .init → InitStage s (s.ctx c).phase.toNat
  teardown : ∀ c, (s.ctx c).runs .teardown → TeardownStage s (s.ctx c).phase.toNat (s.ctx c).k.toNat
  /-- With no controller and no lifecycle command past its first row, nothing is held and no pin is requested (R148, R149). -/
  absent : s.constructed = false → (∀ c, s.lifecycleIn c → (s.ctx c).phase = 0) →
    s.gpioRsv = false ∧ s.iomuxRsv = false ∧ s.tableEmpty
  /-- A command that needs the controller and is past its dispatch check runs on a constructed one (R95, R255). -/
  users : ∀ c i, (s.ctx c).runs i → i ≠ .init → i ≠ .teardown → (s.ctx c).phase ≠ 0 → s.constructed = true

/-! ### Who writes what -/

/-- The commands that never write a GPIO byte (R163, R165, R166, R198, R141, R120). -/
def neverStores : Instr → Bool
  | .req _ => true
  | .free _ => false
  | .getl _ => true
  | .getd _ => true
  | .setl _ _ => false
  | .dout _ _ => false
  | .din _ => false
  | .diag _ => true
  | .dump => true
  | .init => true
  | .teardown => false
  | .down _ => true
  | .dpull _ => true
  | .dmux _ => true
  | .isout _ => true
  | .rlvl _ => true
  | .sout _ _ => true
  | .sin _ => true

/-- The pin whose GPIO byte a command can store to in the running context's row: its operand, or TEARDOWN's loop counter (R160,
R150). -/
def storedPin (s : State) : Instr → Option Nat
  | .free i => some i.toNat
  | .setl i _ => some i.toNat
  | .dout i _ => some i.toNat
  | .din i => some i.toNat
  | .teardown => some s.self.k.toNat
  | .req _ => none
  | .getl _ => none
  | .getd _ => none
  | .diag _ => none
  | .dump => none
  | .init => none
  | .down _ => none
  | .dpull _ => none
  | .dmux _ => none
  | .isout _ => none
  | .rlvl _ => none
  | .sout _ _ => none
  | .sin _ => none

/-- The commands the controller must exist for (R95). -/
def needsConstructed : Instr → Bool
  | .req _ => true
  | .free _ => true
  | .getl _ => true
  | .getd _ => true
  | .setl _ _ => true
  | .dout _ _ => true
  | .din _ => true
  | .diag _ => true
  | .dump => true
  | .teardown => true
  | .init => false
  | .down _ => false
  | .dpull _ => false
  | .dmux _ => false
  | .isout _ => false
  | .rlvl _ => false
  | .sout _ _ => false
  | .sin _ => false

/-- The two banks do not overlap (R64). -/
def State.banksApart (s : State) : Prop :=
  s.gpioBase.toNat + Config.nPin ≤ s.iomuxBase.toNat ∨ s.iomuxBase.toNat + Config.nPin ≤ s.gpioBase.toNat

/-! ### A command run alone -/

/-- The most micro-steps a command takes (R260). -/
def microStepBound : Instr → Nat
  | .init => 13
  | .dump => 770
  | .teardown => 261
  | .req _ => 5
  | .free _ => 5
  | .getl _ => 5
  | .getd _ => 5
  | .setl _ _ => 5
  | .dout _ _ => 5
  | .din _ => 5
  | .diag _ => 5
  | .down _ => 5
  | .dpull _ => 5
  | .dmux _ => 5
  | .isout _ => 5
  | .rlvl _ => 5
  | .sout _ _ => 5
  | .sin _ => 5

/-- The command `i` of the running context, run alone (no other agent moves) until it responds or `n` micro-steps are done. -/
def runAlone : Nat → Instr → State → Result
  | 0, _, s => .next s
  | n + 1, i, s =>
    match exec i s with
    | .next t => if t.self.busy then runAlone n i t else .next t
    | .fault f => .fault f
    | .refused r => .refused r

/-- "A run of a command sequence is over when every context is idle ... and no further command is to be issued" (R260). -/
def State.runOver (s : State) : Prop := (∀ c, (s.ctx c).busy = false) ∧ ∀ c, s.callers.getD c [] = []

/-- The running context has just accepted a command: it is busy and at phase 0 (R90). -/
structure Accepted (s : State) : Prop where
  curExists : s.cur < s.ctxs.length
  busy : s.self.busy = true
  phase : s.self.phase = 0

/-- A command has been accepted that the lock does not hold back, on a constructed controller. -/
structure AcceptedReady (s : State) : Prop where
  accepted : Accepted s
  constructed : s.constructed = true
  lockFree : s.lock = none

/-- The running context is at row `p` of its command. -/
structure AtRow (s : State) (p : BitVec 4) : Prop where
  curExists : s.cur < s.ctxs.length
  phase : s.self.phase = p

/-- The state after the running context's registers become `x`; nothing else changes. -/
def State.withSelf (s : State) (x : Context) : State := { s with ctxs := s.ctxs.set s.cur x }

end Sys2Proof.Machine
end

