-- ==== Sys2Proof/Certificates/Slice0/Obligations.lean ====
section
/-! DEFINITION. The statements about this model. Each docstring names the rule of spec/ that the statement formalises, or says that it
is the model's choice and names the log entry. A row statement gives the next state in full, so it is the row's frame as well. -/

open Sys2Proof Sys2Proof.Machine

/-! ## Encoding -/

/-- R93: decoding the word of a command gives the command back, with every operand; and no other word decodes to it. -/
def Obligations.DecodeEncodeAgree : Prop :=
  (∀ i : Instr, decode (encode i) = .ok i) ∧ ∀ (w : Word) (i : Instr), decode w = .ok i → encode i = w

/-- R93: a word decodes to an operation exactly when a row of the opcode map selects it, it is that operation's row, and "no word
matches two". -/
def Obligations.OpcodeRowSelectsDecoded : Prop :=
  (∀ (w : Word) (i : Instr), decode w = .ok i → rowOf i ∈ opcodeTable ∧ (rowOf i).selects w = true) ∧
  (∀ (w : Word) (r : OpcodeRow), r ∈ opcodeTable → r.selects w = true → ∃ i, decode w = .ok i ∧ rowOf i = r) ∧
  ∀ (w : Word) (r q : OpcodeRow), r ∈ opcodeTable → q ∈ opcodeTable → r.selects w = true → q.selects w = true → r = q

/-- R94: which words are illegal, and that the only micro-step of an illegal word answers ILLEGAL_COMMAND with the word, changing
nothing but the context's own registers. -/
def Obligations.IllegalWordsAnswered : Prop :=
  (∀ w : Word, (∃ m, decode w = .error m) ↔
    w.toNat / 2 ^ 11 ∈ [0x00, 0x0C, 0x0D, 0x0E, 0x0F, 0x17, 0x18, 0x19, 0x1A, 0x1B, 0x1C, 0x1D, 0x1E, 0x1F] ∨
    w.toNat / 2 ^ 9 % 4 ≠ 0 ∨
    (w.toNat / 2 ^ 8 % 2 = 1 ∧ w.toNat / 2 ^ 11 ∉ [0x05, 0x06, 0x15]) ∨
    (w.toNat % 2 ^ 8 ≠ 0 ∧ w.toNat / 2 ^ 11 ∈ [0x09, 0x0A, 0x0B])) ∧
  ∀ (s : State) (m : Malformed), s.cur < s.ctxs.length → decode s.self.cmd = .error m →
    microStep s = .next (s.withSelf { s.self with rsp := ⟨6, s.self.cmd.setWidth 64⟩, busy := false })

/-- The words that R93 prints as examples decode to the commands it prints beside them, and so does the example of
R194. -/
def Obligations.PrintedWordsDecode : Prop :=
  decode 0x0817 = .ok (.req 23) ∧ decode 0x2917 = .ok (.setl 23 true) ∧ decode 0x30BB = .ok (.dout 187 false) ∧
  decode 0xA962 = .ok (.sout 0x62 true) ∧ decode 0x5000 = .ok .init ∧ decode 0x4064 = .ok (.diag 100)

/-! ## Steps, issue and dispatch -/

/-- The turn of a busy context runs the command its word names: on the agenda's order, or, when the agenda is empty, on the cyclic
order (log 3). -/
def Obligations.StepRunsDecodedInstruction : Prop :=
  ∀ (s : State) (c : Nat) (i : Instr), c < s.ctxs.length → (s.ctx c).busy = true → decode (s.ctx c).cmd = .ok i →
    (∀ rest, s.agenda = .run c :: rest → step s = exec i { s with agenda := rest, cur := c }) ∧
    (s.agenda = [] → s.nextTurn = c → step s = exec i { s with cur := c })

/-- A placed word is the command of context 0 at row 0, and the next step runs exactly it (log 4). -/
def Obligations.PlacedWordRunsNext : Prop :=
  ∀ (s : State) (w : Word) (i : Instr), 0 < s.ctxs.length → decode w = .ok i →
    step (s.withFetchWord 16 w.toNat) =
      exec i { s with cur := 0, ctxs := s.ctxs.set 0 { s.ctx 0 with cmd := w, busy := true, phase := 0 } }

/-- R90: `Issue(c, w)` happens in the turn of an idle context whose caller has a word to issue; it makes the context busy with that
word at row 0 and changes nothing else of the machine. A busy context accepts no word: its caller's words stay. -/
def Obligations.IdleContextIssues : Prop :=
  ∀ (s : State) (c : Nat) (rest : List Event), c < s.ctxs.length → s.agenda = .run c :: rest →
    (∀ (w : Word) (ws : List Word), (s.ctx c).busy = false → s.callers.getD c [] = w :: ws →
      step s = .next { s with agenda := rest, cur := c, callers := s.callers.set c ws,
                              ctxs := s.ctxs.set c { s.ctx c with cmd := w, busy := true, phase := 0 } }) ∧
    ((s.ctx c).busy = false → s.callers.getD c [] = [] → step s = .next { s with agenda := rest, cur := c }) ∧
    ∀ t, (s.ctx c).busy = true → step s = .next t → t.callers = s.callers

/-- R95: the dispatch checks at phase 0, in their order: the illegal word, INIT on a constructed controller, the ten commands that
need one. Whatever else holds, each answers at once and changes nothing but the context's own registers. The codec commands pass at
any time. -/
def Obligations.DispatchChecksInOrder : Prop :=
  ∀ s : State, AtRow s 0 →
    (∀ m, decode s.self.cmd = .error m →
      microStep s = .next (s.withSelf { s.self with rsp := ⟨6, s.self.cmd.setWidth 64⟩, busy := false })) ∧
    (decode s.self.cmd = .ok .init → s.constructed = true →
      microStep s = .next (s.withSelf { s.self with rsp := ⟨10, 0⟩, busy := false })) ∧
    (∀ i, decode s.self.cmd = .ok i → needsConstructed i = true → s.constructed = false →
      microStep s = .next (s.withSelf { s.self with rsp := ⟨7, 0⟩, busy := false })) ∧
    ∀ i, decode s.self.cmd = .ok i → needsConstructed i = false → i ≠ .init →
      ∃ data, microStep s = .next (s.withSelf { s.self with rsp := ⟨0, data⟩, busy := false })

/-! ## Codec -/

/-- R121: DOWN answers the ownership of bits 1:0, under the default layout and code table. -/
def Obligations.OwnershipDecoded : Prop :=
  ∀ (s : State) (b : Byte), AtRow s 0 → s.params.layout = Layout.default → s.params.ownCode = Params.default.ownCode →
    exec (.down b) s = .next (s.withSelf
      { s.self with
        rsp := ⟨0, match b.toNat % 4 with
          | 0 => 0   -- None
          | 1 => 1   -- EmbeddedController
          | 2 => 2   -- Host
          | _ => 3⟩  -- Invalid
        busy := false })

/-- R122: DPULL answers the pull of bits 4:3 by the table, under the default layout and code table. -/
def Obligations.PullDecoded : Prop :=
  ∀ (s : State) (b : Byte), AtRow s 0 → s.params.layout = Layout.default → s.params.pullCode = Params.default.pullCode →
    exec (.dpull b) s = .next (s.withSelf
      { s.self with
        rsp := ⟨0, match b.toNat / 8 % 4 with
          | 0 => 1   -- PullUp
          | 1 => 0   -- NoPull
          | 2 => 3   -- Invalid
          | _ => 2⟩  -- PullDown
        busy := false })

/-- R123: DMUX answers bits 1:0, all four valid, under the default layout. -/
def Obligations.MuxDecoded : Prop :=
  ∀ (s : State) (b : Byte), AtRow s 0 → s.params.layout = Layout.default →
    exec (.dmux b) s = .next (s.withSelf { s.self with rsp := ⟨0, BitVec.ofNat 64 (b.toNat % 4)⟩, busy := false })

/-- R124, R125: ISOUT answers 1 exactly when bit 5 is clear, RLVL answers bit 7, under the default layout. -/
def Obligations.EnableAndLevelRead : Prop :=
  ∀ (s : State) (b : Byte), AtRow s 0 → s.params.layout = Layout.default →
    exec (.isout b) s = .next (s.withSelf { s.self with rsp := ⟨0, if b[5] then 0 else 1⟩, busy := false }) ∧
    exec (.rlvl b) s = .next (s.withSelf { s.self with rsp := ⟨0, if b[7] then 1 else 0⟩, busy := false })

/-- R126: SOUT answers `(b & 0x9F) | (v << 6)` under the default layout. -/
def Obligations.OutputSetInByte : Prop :=
  ∀ (s : State) (b : Byte) (v : Bool), AtRow s 0 → s.params.layout = Layout.default →
    exec (.sout b v) s = .next (s.withSelf
      { s.self with rsp := ⟨0, ((b &&& 0x9F) ||| (if v then 0x40 else 0x00)).setWidth 64⟩, busy := false })

/-- R127: SIN answers `b | 0x20` under the default layout. -/
def Obligations.InputSetInByte : Prop :=
  ∀ (s : State) (b : Byte), AtRow s 0 → s.params.layout = Layout.default →
    exec (.sin b) s = .next (s.withSelf { s.self with rsp := ⟨0, (b ||| 0x20).setWidth 64⟩, busy := false })

/-- R128: the laws of the codec, (a) to (e), for every well-formed placement of the fields (D2: "holds for any placement in which the
six fields are disjoint"). -/
def Obligations.CodecLawsForAnyLayout : Prop :=
  ∀ (p : Params) (b : Byte) (v : Bool), p.layout.wellFormed = true →
    (∀ c : Byte, c.extractLsb' p.layout.ownLsb 2 = b.extractLsb' p.layout.ownLsb 2 → decodeOwnership p c = decodeOwnership p b) ∧
    isOutputEnabled p (setOutput p b v) = true ∧
    (setOutput p b v).getLsbD p.layout.outBit = v ∧
    (∀ k, k ≠ p.layout.oebBit → k ≠ p.layout.outBit → (setOutput p b v).getLsbD k = b.getLsbD k) ∧
    (∀ k, k ≠ p.layout.oebBit → (setInput p b).getLsbD k = b.getLsbD k) ∧
    isOutputEnabled p (setInput p b) = false ∧
    (decodeOwnership p (setOutput p b v) = decodeOwnership p b ∧ decodeOwnership p (setInput p b) = decodeOwnership p b) ∧
    (decodePull p (setOutput p b v) = decodePull p b ∧ decodePull p (setInput p b) = decodePull p b) ∧
    readLevel p (setOutput p b v) = readLevel p b ∧ readLevel p (setInput p b) = readLevel p b

/-! ## The buses and the lock -/

/-- R67, R83: a read at `GPIO_BASE + i` returns the stored bits and, in the input bit, the level sampled by this read: with
`PadLoopback` the driven value of an output-enabled pin, else the level at the pad, whatever it is. A read at `IOMUX_BASE + i` returns
`IOMUX[i]`. A read changes no state of the spec. That a read of another address faults is the model's choice (log 15). -/
def Obligations.ReadSamplesThePad : Prop :=
  (∀ (s : State) (i : Nat) (k : Byte → State → Result), i < 256 → s.params.layout.inBit < 8 →
    ∃ b : Byte, memRead s (s.gpioBase.toNat + i) k = k b { s with draws := s.draws + 1 } ∧
      (∀ j, j ≠ s.params.layout.inBit → b.getLsbD j = (s.gpio.read i).getLsbD j) ∧
      (∀ level, (s.params.padLoopback = false ∨ (s.gpio.read i).getLsbD s.params.layout.oebBit = true) →
        s.inputs.pads[i]? = some (some level) → b.getLsbD s.params.layout.inBit = level) ∧
      (s.params.padLoopback = true → (s.gpio.read i).getLsbD s.params.layout.oebBit = false →
        b.getLsbD s.params.layout.inBit = (s.gpio.read i).getLsbD s.params.layout.outBit)) ∧
  (∀ (s : State) (i : Nat) (k : Byte → State → Result), i < 256 → s.banksApart →
    memRead s (s.iomuxBase.toNat + i) k = k (s.iomux.read i) s) ∧
  ∀ (s : State) (a : Nat) (k : Byte → State → Result), (∀ i, i < 256 → a ≠ s.gpioBase.toNat + i ∧ a ≠ s.iomuxBase.toNat + i) →
    memRead s a k = .fault (.unmappedAddress a)

/-- R68: a write at `GPIO_BASE + i` stores every bit but the input bit, leaves every other byte alone and keeps the file canonical.
That a write anywhere else faults is the model's choice (log 15). -/
def Obligations.WriteStoresOneGpioByte : Prop :=
  (∀ (s : State) (i : Nat) (v : Byte) (k : State → Result), i < 256 → ∃ t : State,
    memWrite s (s.gpioBase.toNat + i) v k = k t ∧ t = { s with gpio := t.gpio } ∧
    (∀ j, j ≠ s.params.layout.inBit → j < 8 → (t.gpioStored i).getLsbD j = v.getLsbD j) ∧
    (t.gpioStored i).getLsbD s.params.layout.inBit = false ∧
    (∀ a, a ≠ s.gpioBase.toNat + i → t.storedAt a = s.storedAt a) ∧ (s.gpio.wf → t.gpio.wf)) ∧
  ∀ (s : State) (a : Nat) (v : Byte) (k : State → Result), (∀ i, i < 256 → a ≠ s.gpioBase.toNat + i) →
    memWrite s a v k = .fault (.unmappedAddress a)

/-- R77, R214: `Acquire` takes a free lock and is held while it is not free; `Release` frees the lock its context holds; `raise` frees
the lock if its context holds it, and responds. That a held step is a turn without effect, and that a Release without the lock faults,
are the model's (log 12, log 13). -/
def Obligations.LockAndRaise : Prop :=
  ∀ (s : State) (k : State → Result),
    (s.lock = none → acquire s k = k { s with lock := some s.cur }) ∧
    (∀ d, s.lock = some d → acquire s k = .next s) ∧
    (s.lock = some s.cur → release s k = k { s with lock := none }) ∧
    (s.lock ≠ some s.cur → release s k = .fault .releaseNotHeld) ∧
    ∀ (st : Status) (info : Data), s.raise st info =
      ({ s with lock := if s.lock = some s.cur then none else s.lock } : State).withSelf
        { s.self with rsp := ⟨statusCode st, info⟩, busy := false }

/-! ## The phase tables, row by row -/

/-- R163: the rows of REQ. -/
def Obligations.ReqRows : Prop :=
  ∀ (i : Byte) (s : State),
    (AtRow s 0 → s.constructed = true → s.lock = none →
      exec (.req i) s = .next ((s.setLock (some s.cur)).withSelf { s.self with phase := 1 })) ∧
    (AtRow s 1 → exec (.req i) s = .next
      (s.drew.withSelf { s.self with b := s.gpioSampled i.toNat, phase := 2 })) ∧
    (AtRow s 2 → s.lock = some s.cur → decodeOwnership s.params s.self.b = .embeddedController →
      exec (.req i) s = .next ((s.setLock none).withSelf
        { s.self with rsp := ⟨4, s.self.b.setWidth 64⟩, busy := false })) ∧
    (AtRow s 2 → s.lock = some s.cur → decodeOwnership s.params s.self.b ≠ .embeddedController →
      exec (.req i) s = .next (((s.saveOriginal i.toNat s.self.b).setLock none).withSelf
        { s.self with rsp := ⟨0, s.self.b.setWidth 64⟩, busy := false }))

/-- R164: the rows of FREE. -/
def Obligations.FreeRows : Prop :=
  ∀ (i : Byte) (s : State),
    (AtRow s 0 → s.constructed = true → s.lock = none →
      exec (.free i) s = .next ((s.setLock (some s.cur)).withSelf { s.self with phase := 1 })) ∧
    (AtRow s 1 → s.lock = some s.cur → s.valid i.toNat = false →
      exec (.free i) s = .next ((s.setLock none).withSelf { s.self with rsp := ⟨8, 0⟩, busy := false })) ∧
    (AtRow s 1 → s.valid i.toNat = true →
      exec (.free i) s = .next ((s.storeGpio i.toNat (s.saved i.toNat)).withSelf
        { s.self with t := s.saved i.toNat, phase := 2 })) ∧
    (AtRow s 2 → s.lock = some s.cur →
      exec (.free i) s = .next (((s.dropOriginal i.toNat).setLock none).withSelf
        { s.self with rsp := ⟨0, s.self.t.setWidth 64⟩, busy := false }))

/-- R165, R166: GETL answers the input bit and GETD the inverted enable bit of the byte this read returns, whoever holds the lock. -/
def Obligations.LevelAndDirectionRows : Prop :=
  ∀ (i : Byte) (s : State), AtRow s 0 → s.constructed = true →
    exec (.getl i) s = .next (s.drew.withSelf
      { s.self with
        b := s.gpioSampled i.toNat
        rsp := ⟨0, if (s.gpioSampled i.toNat).getLsbD s.params.layout.inBit then 1 else 0⟩
        busy := false }) ∧
    exec (.getd i) s = .next (s.drew.withSelf
      { s.self with
        b := s.gpioSampled i.toNat
        rsp := ⟨0, if (s.gpioSampled i.toNat).getLsbD s.params.layout.oebBit then 1 else 0⟩
        busy := false })

/-- R167: the rows of SETL. -/
def Obligations.SetlRows : Prop :=
  ∀ (i : Byte) (v : Bool) (s : State),
    (AtRow s 0 → s.constructed = true → s.lock = none →
      exec (.setl i v) s = .next ((s.setLock (some s.cur)).withSelf { s.self with phase := 1 })) ∧
    (AtRow s 1 → exec (.setl i v) s = .next
      (s.drew.withSelf { s.self with b := s.gpioSampled i.toNat, phase := 2 })) ∧
    (AtRow s 2 → (isOutputEnabled s.params s.self.b = true ∨ s.override = true) →
      exec (.setl i v) s = .next ((s.storeGpio i.toNat (setOutput s.params s.self.b v)).withSelf
        { s.self with t := setOutput s.params s.self.b v, phase := 3 })) ∧
    (AtRow s 2 → s.lock = some s.cur → isOutputEnabled s.params s.self.b = false → s.override = false →
      exec (.setl i v) s = .next ((s.setLock none).withSelf { s.self with rsp := ⟨0, 0⟩, busy := false })) ∧
    (AtRow s 3 → s.lock = some s.cur →
      exec (.setl i v) s = .next ((s.setLock none).withSelf { s.self with rsp := ⟨0, 0⟩, busy := false }))

/-- R168: the rows of DOUT. -/
def Obligations.DoutRows : Prop :=
  ∀ (i : Byte) (v : Bool) (s : State),
    (AtRow s 0 → s.constructed = true → isOutputEnabled s.params (s.gpioSampled i.toNat) = true →
      exec (.dout i v) s = .next (s.drew.withSelf
        { s.self with b := s.gpioSampled i.toNat, rsp := ⟨0, 0⟩, busy := false })) ∧
    (AtRow s 0 → s.constructed = true → isOutputEnabled s.params (s.gpioSampled i.toNat) = false →
      exec (.dout i v) s = .next (s.drew.withSelf
        { s.self with b := s.gpioSampled i.toNat, phase := 1 })) ∧
    (AtRow s 1 → s.lock = none →
      exec (.dout i v) s = .next ((s.setLock (some s.cur)).withSelf { s.self with phase := 2 })) ∧
    (AtRow s 2 → exec (.dout i v) s = .next
      (s.drew.withSelf { s.self with b := s.gpioSampled i.toNat, phase := 3 })) ∧
    (AtRow s 3 → s.lock = some s.cur → setOutput s.params s.self.b v = s.self.b →
      exec (.dout i v) s = .next ((s.setLock none).withSelf
        { s.self with t := setOutput s.params s.self.b v, rsp := ⟨0, 0⟩, busy := false })) ∧
    (AtRow s 3 → s.lock = some s.cur → setOutput s.params s.self.b v ≠ s.self.b → s.override = false →
      exec (.dout i v) s = .next ((s.setLock none).withSelf
        { s.self with
          t := setOutput s.params s.self.b v
          rsp := ⟨5, (setOutput s.params s.self.b v ++ s.self.b).setWidth 64⟩
          busy := false })) ∧
    (AtRow s 3 → setOutput s.params s.self.b v ≠ s.self.b → s.override = true →
      exec (.dout i v) s = .next ((s.storeGpio i.toNat (setOutput s.params s.self.b v)).withSelf
        { s.self with t := setOutput s.params s.self.b v, phase := 4 })) ∧
    (AtRow s 4 → s.lock = some s.cur →
      exec (.dout i v) s = .next ((s.setLock none).withSelf { s.self with rsp := ⟨0, 0⟩, busy := false }))

/-- R169: the rows of DIN. -/
def Obligations.DinRows : Prop :=
  ∀ (i : Byte) (s : State),
    (AtRow s 0 → s.constructed = true → s.lock = none →
      exec (.din i) s = .next ((s.setLock (some s.cur)).withSelf { s.self with phase := 1 })) ∧
    (AtRow s 1 → exec (.din i) s = .next
      (s.drew.withSelf { s.self with b := s.gpioSampled i.toNat, phase := 2 })) ∧
    (AtRow s 2 → s.lock = some s.cur → setInput s.params s.self.b = s.self.b →
      exec (.din i) s = .next ((s.setLock none).withSelf
        { s.self with t := setInput s.params s.self.b, rsp := ⟨0, 0⟩, busy := false })) ∧
    (AtRow s 2 → s.lock = some s.cur → setInput s.params s.self.b ≠ s.self.b → s.override = false →
      exec (.din i) s = .next ((s.setLock none).withSelf
        { s.self with
          t := setInput s.params s.self.b
          rsp := ⟨5, (setInput s.params s.self.b ++ s.self.b).setWidth 64⟩
          busy := false })) ∧
    (AtRow s 2 → setInput s.params s.self.b ≠ s.self.b → s.override = true →
      exec (.din i) s = .next ((s.storeGpio i.toNat (setInput s.params s.self.b)).withSelf
        { s.self with t := setInput s.params s.self.b, phase := 3 })) ∧
    (AtRow s 3 → s.lock = some s.cur →
      exec (.din i) s = .next ((s.setLock none).withSelf { s.self with rsp := ⟨0, 0⟩, busy := false }))

/-- R194: the rows of DIAG. -/
def Obligations.DiagRows : Prop :=
  ∀ (i : Byte) (s : State),
    (AtRow s 0 → s.constructed = true → s.skip i.toNat = true →
      exec (.diag i) s = .next (s.withSelf { s.self with rsp := ⟨0, 0x200 ||| i.setWidth 64⟩, busy := false })) ∧
    (AtRow s 0 → s.constructed = true → s.skip i.toNat = false →
      exec (.diag i) s = .next (s.withSelf { s.self with req := s.valid i.toNat, phase := 1 })) ∧
    (AtRow s 1 → exec (.diag i) s = .next
      (s.drew.withSelf { s.self with b := s.gpioSampled i.toNat, phase := 2 })) ∧
    (AtRow s 2 → s.banksApart →
      exec (.diag i) s = .next (s.withSelf
        { s.self with
          m := s.iomux.read i.toNat
          rsp := ⟨0, record s.params i.toNat s.self.req s.self.b (s.iomux.read i.toNat)⟩
          busy := false }))

/-- R195: the rows of DUMP. -/
def Obligations.DumpRows : Prop :=
  ∀ s : State,
    (AtRow s 0 → s.constructed = true →
      exec .dump s = .next (s.withSelf { s.self with k := 0, n := 0, out := [], phase := 1 })) ∧
    (AtRow s 1 → s.self.k = 256 →
      exec .dump s = .next (s.withSelf { s.self with rsp := ⟨0, s.self.n.setWidth 64⟩, busy := false })) ∧
    (AtRow s 1 → s.self.k ≠ 256 → s.skip s.self.k.toNat = true →
      exec .dump s = .next (s.withSelf { s.self with k := s.self.k + 1 })) ∧
    (AtRow s 1 → s.self.k ≠ 256 → s.skip s.self.k.toNat = false →
      exec .dump s = .next (s.withSelf { s.self with req := s.valid s.self.k.toNat, phase := 2 })) ∧
    (AtRow s 2 → s.self.k.toNat < 256 → exec .dump s = .next
      (s.drew.withSelf { s.self with b := s.gpioSampled s.self.k.toNat, phase := 3 })) ∧
    (AtRow s 3 → s.self.k.toNat < 256 → s.banksApart →
      exec .dump s = .next (s.withSelf
        { s.self with
          m := s.iomux.read s.self.k.toNat
          out := s.self.out ++ [record s.params s.self.k.toNat s.self.req s.self.b (s.iomux.read s.self.k.toNat)]
          n := s.self.n + 1
          k := s.self.k + 1
          phase := 1 }))

/-- R141: the rows of INIT. -/
def Obligations.InitRows : Prop :=
  ∀ s : State,
    (AtRow s 0 → s.constructed = false →
      (s.inputs.chipMatch = false ∨ (s.inputs.chipGated = true ∧ s.inputs.chipRev.toNat < 0x40)) →
      exec .init s = .next (s.withSelf { s.self with rsp := ⟨9, 0⟩, busy := false })) ∧
    (AtRow s 0 → s.constructed = false →
      s.inputs.chipMatch = true → (s.inputs.chipGated = false ∨ 0x40 ≤ s.inputs.chipRev.toNat) →
      exec .init s = .next ((s.setLocRaw 0).withSelf { s.self with k := 0, phase := 1 })) ∧
    (AtRow s 1 → exec .init s = .next
      ((s.setPmidx (BitVec.ofNat 8 (s.params.pmBaseReg + s.self.k.toNat))).withSelf { s.self with phase := 2 })) ∧
    (AtRow s 2 → s.self.k.toNat < 4 →
      exec .init s = .next
        ((s.setLocRaw (s.locRaw ||| (s.pmreg.read s.pmidx.toNat).setWidth 32 <<< (8 * s.self.k.toNat))).withSelf
          { s.self with k := s.self.k + 1, phase := if s.self.k.toNat = 3 then 3 else 1 })) ∧
    (AtRow s 3 → (s.locRaw = 0x00000000 ∨ s.locRaw = 0xFFFFFFFF) → s.lock ≠ some s.cur →
      exec .init s = .next (s.withSelf { s.self with rsp := ⟨1, s.locRaw.setWidth 64⟩, busy := false })) ∧
    (AtRow s 3 → s.locRaw ≠ 0x00000000 → s.locRaw ≠ 0xFFFFFFFF → s.locRaw.toNat % 4 ≠ 1 → s.lock ≠ some s.cur →
      exec .init s = .next (s.withSelf { s.self with rsp := ⟨2, s.locRaw.setWidth 64⟩, busy := false })) ∧
    (AtRow s 3 → s.locRaw ≠ 0x00000000 → s.locRaw ≠ 0xFFFFFFFF → s.locRaw.toNat % 4 = 1 →
      exec .init s = .next ((s.setBases (BitVec.ofNat 33 (s.locRaw.toNat - 1 + s.params.gpioOffset))
        (BitVec.ofNat 33 (s.locRaw.toNat - 1 + s.params.iomuxOffset))).withSelf
          { s.self with phase := 4 })) ∧
    (AtRow s 4 → s.arbiterGrants s.gpioBase.toNat s.params.bankSize = true →
      exec .init s = .next ((s.drew.setGpioRsv true).withSelf { s.self with phase := 5 })) ∧
    (AtRow s 4 → s.arbiterGrants s.gpioBase.toNat s.params.bankSize = false → s.lock ≠ some s.cur →
      exec .init s = .next (s.drew.withSelf
        { s.self with rsp := ⟨3, s.gpioBase.setWidth 64⟩, busy := false })) ∧
    (AtRow s 5 → s.arbiterGrants s.iomuxBase.toNat s.params.bankSize = true →
      exec .init s = .next ((s.drew.setIomuxRsv true).withSelf { s.self with phase := 7 })) ∧
    (AtRow s 5 → s.arbiterGrants s.iomuxBase.toNat s.params.bankSize = false →
      exec .init s = .next (s.drew.withSelf { s.self with phase := 6 })) ∧
    (AtRow s 6 → s.lock ≠ some s.cur →
      exec .init s = .next ((s.setGpioRsv false).withSelf
        { s.self with rsp := ⟨3, (1#1 ++ 0#30 ++ s.iomuxBase).setWidth 64⟩, busy := false })) ∧
    (AtRow s 7 →
      exec .init s = .next ((s.setConstructed true).withSelf
        { s.self with rsp := ⟨0, (s.iomuxBase.setWidth 32 ++ s.gpioBase.setWidth 32).setWidth 64⟩, busy := false }))

/-- R150: the rows of TEARDOWN. -/
def Obligations.TeardownRows : Prop :=
  ∀ s : State,
    (AtRow s 0 → s.constructed = true → s.lock = none →
      exec .teardown s = .next (((s.setLock (some s.cur)).setConstructed false).withSelf
        { s.self with k := 0, n := 0, phase := 1 })) ∧
    (AtRow s 1 → s.self.k = 256 → exec .teardown s = .next (s.withSelf { s.self with phase := 2 })) ∧
    (AtRow s 1 → s.self.k.toNat < 256 → s.valid s.self.k.toNat = false →
      exec .teardown s = .next (s.withSelf { s.self with k := s.self.k + 1 })) ∧
    (AtRow s 1 → s.self.k.toNat < 256 → s.valid s.self.k.toNat = true →
      exec .teardown s = .next
        (((s.storeGpio s.self.k.toNat (s.saved s.self.k.toNat)).dropOriginal s.self.k.toNat).withSelf
          { s.self with n := s.self.n + 1, k := s.self.k + 1 })) ∧
    (AtRow s 2 → s.lock = some s.cur →
      exec .teardown s = .next ((s.setLock none).withSelf { s.self with phase := 3 })) ∧
    (AtRow s 3 → exec .teardown s = .next ((s.setIomuxRsv false).withSelf { s.self with phase := 4 })) ∧
    (AtRow s 4 → exec .teardown s = .next ((s.setGpioRsv false).withSelf
      { s.self with rsp := ⟨0, s.self.n.setWidth 64⟩, busy := false }))

/-- The model's choices where R41 and R77 give a row no step (log 12, log 13, log 14): an `Acquire` row is a turn without effect while
the lock is not free, a phase beyond a command's table faults, and so does every `Release` row of a context that does not hold the
lock. -/
def Obligations.HeldAndStuckRows : Prop :=
  (∀ (i : Instr) (s : State), lastPhase i < s.self.phase.toNat → exec i s = .fault (.phaseOutsideTable s.self.phase)) ∧
  (∀ (i : Byte) (v : Bool) (s : State), s.lock ≠ none →
    (AtRow s 0 → s.constructed = true → exec (.req i) s = .next s ∧ exec (.free i) s = .next s ∧
      exec (.setl i v) s = .next s ∧ exec (.din i) s = .next s ∧ exec .teardown s = .next s) ∧
    (AtRow s 1 → exec (.dout i v) s = .next s)) ∧
  ∀ (i : Byte) (v : Bool) (s : State), s.lock ≠ some s.cur →
    (s.self.phase = 2 → decodeOwnership s.params s.self.b ≠ .embeddedController →
      exec (.req i) s = .fault .releaseNotHeld) ∧
    (s.self.phase = 2 → exec (.free i) s = .fault .releaseNotHeld) ∧
    (s.self.phase = 2 → isOutputEnabled s.params s.self.b = false → s.override = false →
      exec (.setl i v) s = .fault .releaseNotHeld) ∧
    (s.self.phase = 3 → exec (.setl i v) s = .fault .releaseNotHeld) ∧
    (s.self.phase = 3 → setOutput s.params s.self.b v = s.self.b → exec (.dout i v) s = .fault .releaseNotHeld) ∧
    (s.self.phase = 2 → setInput s.params s.self.b = s.self.b → exec (.din i) s = .fault .releaseNotHeld) ∧
    (s.self.phase = 4 → exec (.dout i v) s = .fault .releaseNotHeld) ∧
    (s.self.phase = 3 → exec (.din i) s = .fault .releaseNotHeld) ∧
    (s.self.phase = 2 → exec .teardown s = .fault .releaseNotHeld)

/-! ## The diagnostics record -/

/-- R191: the fields of the record, under the default layout and code tables; bits that are not named are 0; and the record of a
skipped pin, in which every field but `pin` and `skipped` is 0. -/
def Obligations.RecordFields : Prop :=
  (∀ i : Nat, i < 256 → (skippedRecord i).toNat = 2 ^ 9 + i) ∧
  ∀ (p : Params) (i : Nat) (r : Bool) (g m : Byte), i < 256 → p.layout = Layout.default →
    p.ownCode = Params.default.ownCode → p.pullCode = Params.default.pullCode →
    let d := record p i r g m
    d.extractLsb' 0 8 = BitVec.ofNat 8 i ∧ d[8] = r ∧ d[9] = false ∧ d[10] = g[5] ∧ d[11] = g[7] ∧
    d.extractLsb' 12 2 = (match g.toNat / 8 % 4 with | 0 => 1 | 1 => 0 | 2 => 3 | _ => 2) ∧
    d.extractLsb' 14 2 = m.extractLsb' 0 2 ∧ d.extractLsb' 16 2 = g.extractLsb' 0 2 ∧
    d[18] = (g.extractLsb' 0 2 != 0#2) ∧ d[19] = decide (96 ≤ i ∧ i ≤ 119) ∧
    d.extractLsb' 20 5 = (if 96 ≤ i ∧ i ≤ 119 then BitVec.ofNat 5 (i - 96) else 0) ∧
    d.extractLsb' 25 7 = 0 ∧ d.extractLsb' 32 8 = g ∧ d.extractLsb' 40 8 = m ∧ d.extractLsb' 48 16 = 0

/-- R192, R193: the four gaps hold 72 indices, a pin in one is skipped unless requested, and pins 96 to 119 have an event index. -/
def Obligations.GapsAndEvents : Prop :=
  ((List.range 256).filter inGap).length = 72 ∧
  (∀ i, inGap i = true ↔ (68 ≤ i ∧ i ≤ 95) ∨ (120 ≤ i ∧ i ≤ 127) ∨ (151 ≤ i ∧ i ≤ 159) ∨ (229 ≤ i ∧ i ≤ 255)) ∧
  (∀ (s : State) (i : Nat), s.skip i = true ↔ inGap i = true ∧ s.valid i = false) ∧
  ∀ i, 96 ≤ i → i ≤ 119 → hasGpe i = true ∧ (gpeIndex i).toNat = i - 96

/-! ## Commands run alone -/

/-- R163, R170 (b): REQ alone on a constructed controller with the lock free answers OWNERSHIP_CONFLICT exactly for the bytes with
`b[1:0] = 0b01`, leaving the table alone, and else requests the pin with the byte it read; no register byte changes. -/
def Obligations.ReqAlone : Prop :=
  ∀ (i : Byte) (s : State), AcceptedReady s → s.params.layout = Layout.default →
    s.params.ownCode = Params.default.ownCode →
    let b := s.gpioSampled i.toNat
    ∃ t, runAlone 3 (.req i) s = .next t ∧ t.self.busy = false ∧ t.lock = none ∧ t.gpio = s.gpio ∧ t.iomux = s.iomux ∧
      (b.toNat % 4 = 1 → t.self.rsp = ⟨4, b.setWidth 64⟩ ∧ t.origValid = s.origValid ∧ t.origVal = s.origVal) ∧
      (b.toNat % 4 ≠ 1 → t.self.rsp = ⟨0, b.setWidth 64⟩ ∧ t.valid i.toNat = true ∧ t.saved i.toNat = b ∧
        ∀ j, j ≠ i.toNat → t.valid j = s.valid j ∧ t.saved j = s.saved j)

/-- R164, R254: FREE alone restores the saved byte's stored bits whatever the override says, drops the entry, and touches no other pin;
on a pin that is not requested it writes nothing and answers NOT_REQUESTED. -/
def Obligations.FreeAlone : Prop :=
  ∀ (i : Byte) (s : State), AcceptedReady s →
    (s.valid i.toNat = true → ∃ t, runAlone 3 (.free i) s = .next t ∧ t.self.busy = false ∧ t.lock = none ∧
      t.self.rsp = ⟨0, (s.saved i.toNat).setWidth 64⟩ ∧
      t.gpioStored i.toNat = s.saved i.toNat &&& ~~~maskIn s.params.layout ∧ t.valid i.toNat = false ∧
      (∀ a, a ≠ gpioAddr s i.toNat → t.storedAt a = s.storedAt a) ∧
      ∀ j, j ≠ i.toNat → t.valid j = s.valid j ∧ t.saved j = s.saved j) ∧
    (s.valid i.toNat = false → runAlone 3 (.free i) s =
      .next (s.withSelf { s.self with phase := 1, rsp := ⟨8, 0⟩, busy := false }))

/-- R167: SETL alone writes the level of an output pin, or of any pin under the override, which makes it an output; else the
value is dropped. It answers OK either way. -/
def Obligations.SetlAlone : Prop :=
  ∀ (i : Byte) (v : Bool) (s : State), AcceptedReady s → s.params.layout.wellFormed = true →
    ∃ t, runAlone 4 (.setl i v) s = .next t ∧ t.self.busy = false ∧ t.lock = none ∧ t.self.rsp = ⟨0, 0⟩ ∧
      t.origValid = s.origValid ∧ t.origVal = s.origVal ∧
      (isOutputEnabled s.params (s.gpioStored i.toNat) = true ∨ s.override = true →
        (t.gpioStored i.toNat).getLsbD s.params.layout.oebBit = false ∧
        (t.gpioStored i.toNat).getLsbD s.params.layout.outBit = v ∧
        (∀ k, k ≠ s.params.layout.oebBit → k ≠ s.params.layout.outBit →
          (t.gpioStored i.toNat).getLsbD k = (s.gpioStored i.toNat).getLsbD k) ∧
        ∀ a, a ≠ gpioAddr s i.toNat → t.storedAt a = s.storedAt a) ∧
      (isOutputEnabled s.params (s.gpioStored i.toNat) = false → s.override = false → t.gpio = s.gpio)

/-- R170 (c), (d), (e): DOUT alone on an output pin succeeds and leaves every byte alone; on an input pin it is refused without the
override, with every byte left alone, and with it the pin becomes an output that drives `v`. -/
def Obligations.DoutAlone : Prop :=
  ∀ (i : Byte) (v : Bool) (s : State), AcceptedReady s → s.params.layout.wellFormed = true →
    ∃ t, runAlone 5 (.dout i v) s = .next t ∧ t.self.busy = false ∧ t.lock = none ∧
      t.origValid = s.origValid ∧ t.origVal = s.origVal ∧
      (isOutputEnabled s.params (s.gpioStored i.toNat) = true → t.self.rsp = ⟨0, 0⟩ ∧ t.gpio = s.gpio) ∧
      (isOutputEnabled s.params (s.gpioStored i.toNat) = false → s.override = false →
        t.self.rsp.status = 5 ∧ t.gpio = s.gpio ∧
        t.self.rsp.data = (setOutput s.params t.self.b v ++ t.self.b).setWidth 64 ∧
        t.self.b &&& ~~~maskIn s.params.layout = s.gpioStored i.toNat) ∧
      (isOutputEnabled s.params (s.gpioStored i.toNat) = false → s.override = true →
        t.self.rsp = ⟨0, 0⟩ ∧ (t.gpioStored i.toNat).getLsbD s.params.layout.oebBit = false ∧
        (t.gpioStored i.toNat).getLsbD s.params.layout.outBit = v ∧
        (∀ k, k ≠ s.params.layout.oebBit → k ≠ s.params.layout.outBit →
          (t.gpioStored i.toNat).getLsbD k = (s.gpioStored i.toNat).getLsbD k) ∧
        ∀ a, a ≠ gpioAddr s i.toNat → t.storedAt a = s.storedAt a)

/-- R169: DIN alone on an input pin writes nothing; on an output pin it is refused without the override and with it the pin
becomes an input whose `OUT` is kept. -/
def Obligations.DinAlone : Prop :=
  ∀ (i : Byte) (s : State), AcceptedReady s → s.params.layout.wellFormed = true →
    ∃ t, runAlone 4 (.din i) s = .next t ∧ t.self.busy = false ∧ t.lock = none ∧
      t.origValid = s.origValid ∧ t.origVal = s.origVal ∧
      (isOutputEnabled s.params (s.gpioStored i.toNat) = false → t.self.rsp = ⟨0, 0⟩ ∧ t.gpio = s.gpio) ∧
      (isOutputEnabled s.params (s.gpioStored i.toNat) = true → s.override = false →
        t.self.rsp.status = 5 ∧ t.gpio = s.gpio ∧
        t.self.rsp.data = (setInput s.params t.self.b ++ t.self.b).setWidth 64 ∧
        t.self.b &&& ~~~maskIn s.params.layout = s.gpioStored i.toNat) ∧
      (isOutputEnabled s.params (s.gpioStored i.toNat) = true → s.override = true →
        t.self.rsp = ⟨0, 0⟩ ∧ (t.gpioStored i.toNat).getLsbD s.params.layout.oebBit = true ∧
        (∀ k, k ≠ s.params.layout.oebBit → (t.gpioStored i.toNat).getLsbD k = (s.gpioStored i.toNat).getLsbD k) ∧
        ∀ a, a ≠ gpioAddr s i.toNat → t.storedAt a = s.storedAt a)

/-- R170 (a), the round-trip law: FREE right after a successful REQ is a no-op on register contents; and in whatever state FREE is run
while the table still holds the byte REQ saved, the pin's stored bits return to what REQ saw. -/
def Obligations.FreeUndoesReq : Prop :=
  ∀ (i : Byte) (s t : State), Inv s → AcceptedReady s → runAlone 3 (.req i) s = .next t → t.self.rsp.status = 0 →
    (∃ u, runAlone 3 (.free i) (t.issue t.cur (encode (.free i))) = .next u ∧ u.self.busy = false ∧
      u.self.rsp.status = 0 ∧ u.gpio = s.gpio ∧ u.iomux = s.iomux ∧ u.valid i.toNat = false ∧ u.lock = none) ∧
    ∀ w : State, AcceptedReady w → w.params = s.params → w.valid i.toNat = true → w.saved i.toNat = t.saved i.toNat →
      ∃ u, runAlone 3 (.free i) w = .next u ∧ u.self.busy = false ∧ u.gpioStored i.toNat = s.gpioStored i.toNat

/-- R141 to R148: INIT alone on a supported chip, with a valid base register and an arbiter that grants both requests, recorded or free
(log 9; a grant implies that the region lies below 2^32, R66), constructs the controller in 13 micro-steps; the base is `LOC_RAW` with
its two low bits cleared, and the bases do not wrap. With InitAloneFails this covers every answer of the arbiter. -/
def Obligations.InitAloneConstructs : Prop :=
  ∀ s : State, Accepted s → s.constructed = false → s.params.wellFormed = true → s.inputs.chipMatch = true →
    (s.inputs.chipGated = true → 0x40 ≤ s.inputs.chipRev.toNat) →
    let d := fun k => s.pmreg.read (s.params.pmBaseReg + k)
    let raw : BitVec 32 := (d 3 ++ d 2 ++ d 1 ++ d 0).setWidth 32
    let gbase := raw.toNat - 1 + s.params.gpioOffset
    let mbase := raw.toNat - 1 + s.params.iomuxOffset
    raw ≠ 0xFFFFFFFF → raw.toNat % 4 = 1 →
    s.arbiterGrants gbase s.params.bankSize = true → s.drew.arbiterGrants mbase s.params.bankSize = true →
    ∃ t, runAlone 13 .init s = .next t ∧ t.self.busy = false ∧ t.self.rsp.status = 0 ∧
      t.self.rsp.data.toNat = mbase * 2 ^ 32 + gbase ∧
      t.constructed = true ∧ t.gpioRsv = true ∧ t.iomuxRsv = true ∧ t.locRaw = raw ∧
      t.gpioBase.toNat = gbase ∧ t.iomuxBase.toNat = mbase ∧
      t.pmidx.toNat = s.params.pmBaseReg + 3 ∧ t.gpio = s.gpio ∧ t.iomux = s.iomux ∧ t.pmreg = s.pmreg ∧
      t.origValid = s.origValid ∧ t.lock = s.lock

/-- R145, R147, R149, R212: the failures of INIT alone in their order, with the data R98 gives each. The arbiter's answers are the
recorded ones or free (log 9); the last failure is the rollback of R147, the GPIO region granted and the IOMUX region denied. After each
failure no controller exists and no region is held. -/
def Obligations.InitAloneFails : Prop :=
  ∀ s : State, Accepted s → s.constructed = false → s.gpioRsv = false → s.iomuxRsv = false → s.lock ≠ some s.cur →
    s.params.wellFormed = true →
    let d := fun k => s.pmreg.read (s.params.pmBaseReg + k)
    let raw : BitVec 32 := (d 3 ++ d 2 ++ d 1 ++ d 0).setWidth 32
    let gbase := raw.toNat - 1 + s.params.gpioOffset
    let mbase := raw.toNat - 1 + s.params.iomuxOffset
    let fails := fun (st : BitVec 4) (data : Nat) => ∃ t, runAlone 13 .init s = .next t ∧ t.self.busy = false ∧
      t.self.rsp.status = st ∧ t.self.rsp.data.toNat = data ∧ t.constructed = false ∧ t.gpioRsv = false ∧ t.iomuxRsv = false ∧
      t.gpio = s.gpio ∧ t.iomux = s.iomux ∧ t.origValid = s.origValid ∧ t.origVal = s.origVal ∧ t.lock = s.lock
    (chipSupported s.inputs = false → fails 9 0) ∧
    (chipSupported s.inputs = true →
      ((raw = 0 ∨ raw = 0xFFFFFFFF) → fails 1 raw.toNat) ∧
      (raw ≠ 0 → raw ≠ 0xFFFFFFFF → raw.toNat % 4 ≠ 1 → fails 2 raw.toNat) ∧
      (raw ≠ 0xFFFFFFFF → raw.toNat % 4 = 1 → s.arbiterGrants gbase s.params.bankSize = false → fails 3 gbase) ∧
      (raw ≠ 0xFFFFFFFF → raw.toNat % 4 = 1 → s.arbiterGrants gbase s.params.bankSize = true →
        s.drew.arbiterGrants mbase s.params.bankSize = false → fails 3 (2 ^ 63 + mbase)))

/-- R150: TEARDOWN alone restores exactly the requested pins, empties the table, releases both regions and the lock, and answers how
many pins it restored, within 261 micro-steps. -/
def Obligations.TeardownAloneRestores : Prop :=
  ∀ s : State, AcceptedReady s →
    ∃ t, runAlone 261 .teardown s = .next t ∧ t.self.busy = false ∧ t.self.rsp.status = 0 ∧
      t.self.rsp.data.toNat = ((List.range 256).filter s.valid).length ∧
      (∀ j, j < 256 → t.gpioStored j =
        if s.valid j then s.saved j &&& ~~~maskIn s.params.layout else s.gpioStored j) ∧
      t.tableEmpty ∧ t.constructed = false ∧ t.gpioRsv = false ∧ t.iomuxRsv = false ∧ t.lock = none ∧ t.iomux = s.iomux

/-- R195, R192: DUMP alone emits, in ascending order, the record of every pin that is not skipped, each with the level its own read
samples (for a pad that nothing drives the free value of that draw, log 8), and answers their number: 184 when no pin is requested. It
writes nothing (R198). -/
def Obligations.DumpAloneReports : Prop :=
  ∀ s : State, Accepted s → s.constructed = true → s.banksApart →
    let pins := (List.range 256).filter fun i => !s.skip i
    ∃ t, runAlone 770 .dump s = .next t ∧ t.self.busy = false ∧ t.self.rsp.status = 0 ∧
      t.self.rsp.data.toNat = pins.length ∧
      t.self.out = pins.mapIdx (fun n i =>
        record s.params i (s.valid i) (({ s with draws := s.draws + n } : State).gpioSampled i) (s.iomux.read i)) ∧
      (s.tableEmpty → t.self.rsp.data = 184) ∧
      t.gpio = s.gpio ∧ t.iomux = s.iomux ∧ t.origValid = s.origValid ∧ t.lock = s.lock

/-- R260: every command responds within its bound of micro-steps, when the lock is free and no other agent moves. -/
def Obligations.CommandsRespondInBound : Prop :=
  ∀ (i : Instr) (s : State), Accepted s → s.lock = none →
    ∃ t, runAlone (microStepBound i) i s = .next t ∧ t.self.busy = false

/-- R171, R214: a command run alone that answers a status other than OK has written no device byte and no table entry, and has neither
made nor removed the controller; and, but for INIT, nothing has changed except the lock, taken and released, and the context's own
registers. And in any interleaving, row by row: the row that answers the error writes none of these, and no earlier row of that command
writes a GPIO byte or a table entry in whatever state it runs ("every `raise` stands before the first `MemWrite` and the first table
write of its command"). -/
def Obligations.FailureNeverWrites : Prop :=
  (∀ (n : Nat) (i : Instr) (s t : State), Accepted s → runAlone n i s = .next t → t.self.busy = false → t.self.rsp.status ≠ 0 →
    t.gpio = s.gpio ∧ t.iomux = s.iomux ∧ t.pmreg = s.pmreg ∧ t.origValid = s.origValid ∧ t.origVal = s.origVal ∧
    t.constructed = s.constructed ∧ (t.lock = s.lock ∨ t.lock = none) ∧
    (i ≠ .init → t = ({ s with lock := t.lock, draws := t.draws } : State).withSelf t.self)) ∧
  ∀ (i : Instr) (s t : State), s.self.busy = true → exec i s = .next t → t.self.busy = false → t.self.rsp.status ≠ 0 →
    (t.gpio = s.gpio ∧ t.iomux = s.iomux ∧ t.pmreg = s.pmreg ∧ t.origValid = s.origValid ∧ t.origVal = s.origVal ∧
      t.constructed = s.constructed) ∧
    ∀ u w : State, u.self.phase.toNat < s.self.phase.toNat → exec i u = .next w →
      w.gpio = u.gpio ∧ w.origValid = u.origValid ∧ w.origVal = u.origVal

/-! ## What a micro-step leaves alone -/

/-- R215, R24, R44: a micro-step of any command changes no other context, neither the override nor the inputs nor the parameters, and
not the order of the turns to come. -/
def Obligations.ExecKeepsOtherContexts : Prop :=
  ∀ (i : Instr) (s t : State), exec i s = .next t →
    t.ctxs.length = s.ctxs.length ∧ (∀ c, c ≠ s.cur → t.ctx c = s.ctx c) ∧ t.cur = s.cur ∧ t.agenda = s.agenda ∧
    t.callers = s.callers ∧ t.inputs = s.inputs ∧ t.params = s.params ∧ t.override = s.override

/-- R32, R63, R151: no command writes an IOMUX byte or a PM register, and only INIT touches the index latch. -/
def Obligations.DeviceFilesNeverWritten : Prop :=
  ∀ (i : Instr) (s t : State), exec i s = .next t →
    t.iomux = s.iomux ∧ t.pmreg = s.pmreg ∧ (i ≠ .init → t.pmidx = s.pmidx)

/-- R160, R198: the GPIO bytes a micro-step leaves alone. A command that stores nothing leaves every byte; the others store only at the
address of their own pin, `GPIO_BASE + i` (TEARDOWN: of its loop's pin). INIT, which moves the bases, leaves every pin's byte. -/
def Obligations.GpioStoresOnlyAtThePin : Prop :=
  ∀ (i : Instr) (s t : State), exec i s = .next t →
    (neverStores i = true → ∀ j, t.gpioStored j = s.gpioStored j) ∧
    (neverStores i = true → i ≠ .init → ∀ a, t.storedAt a = s.storedAt a) ∧
    (∀ p, storedPin s i = some p → ∀ a, a ≠ gpioAddr s p → t.storedAt a = s.storedAt a)

/-- R161, R160: the table changes only under REQ (its own pin's entry), FREE (its own pin's valid bit) and TEARDOWN (its loop's pin's
valid bit). -/
def Obligations.TableWritersOnly : Prop :=
  ∀ (i : Instr) (s t : State), exec i s = .next t →
    (∀ j, t.valid j ≠ s.valid j → (i = .req (BitVec.ofNat 8 j) ∧ j < 256 ∧ t.valid j = true) ∨
      (i = .free (BitVec.ofNat 8 j) ∧ j < 256 ∧ t.valid j = false) ∨
      (i = .teardown ∧ j = s.self.k.toNat ∧ t.valid j = false)) ∧
    ∀ j, t.saved j ≠ s.saved j → i = .req (BitVec.ofNat 8 j) ∧ j < 256

/-- R21 to R27: the lifecycle registers change only under INIT and TEARDOWN; TEARDOWN leaves the bases and `LOC_RAW` alone. -/
def Obligations.LifecycleRegistersOnly : Prop :=
  ∀ (i : Instr) (s t : State), exec i s = .next t →
    (i ≠ .init → t.gpioBase = s.gpioBase ∧ t.iomuxBase = s.iomuxBase ∧ t.locRaw = s.locRaw) ∧
    (i ≠ .init → i ≠ .teardown → t.constructed = s.constructed ∧ t.gpioRsv = s.gpioRsv ∧ t.iomuxRsv = s.iomuxRsv)

/-- R79: GETL, GETD, DIAG, DUMP, the codec and the first read of DOUT neither take nor wait for the lock: who holds it makes no
difference to what they do, and they leave it as it is. -/
def Obligations.LockFreeCommandsIgnoreTheLock : Prop :=
  ∀ (i : Instr) (s t : State) (l : Option Nat),
    (match i with
      | .getl _ | .getd _ | .diag _ | .dump | .down _ | .dpull _ | .dmux _ | .isout _ | .rlvl _ | .sout _ _ | .sin _ => True
      | .dout _ _ => s.self.phase = 0
      | _ => False) →
    exec i s = .next t → t.lock = s.lock ∧ exec i { s with lock := l } = .next { t with lock := l }

/-- R162, R218: in safe mode no row of DOUT or DIN writes a GPIO byte, whatever the other agents do, and the one row of SETL that does
runs on a byte read as output-enabled and writes one that is; and no SETL, DOUT or DIN run alone changes the direction of any pin. -/
def Obligations.SafeModeKeepsDirections : Prop :=
  (∀ (i : Byte) (v : Bool) (s t : State), s.override = false →
    (exec (.dout i v) s = .next t → t.gpio = s.gpio) ∧
    (exec (.din i) s = .next t → t.gpio = s.gpio) ∧
    (exec (.setl i v) s = .next t → t.gpio = s.gpio ∨
      isOutputEnabled s.params s.self.b = true ∧ t.gpio = (s.storeGpio i.toNat (setOutput s.params s.self.b v)).gpio ∧
        (s.params.layout.wellFormed = true → isOutputEnabled s.params (t.gpioStored i.toNat) = true))) ∧
  ∀ (n : Nat) (i : Byte) (v : Bool) (s t : State), Accepted s → s.override = false → s.params.layout.wellFormed = true →
    (runAlone n (.setl i v) s = .next t → ∀ j,
      isOutputEnabled s.params (t.gpioStored j) = isOutputEnabled s.params (s.gpioStored j)) ∧
    (runAlone n (.dout i v) s = .next t → t.gpio = s.gpio) ∧
    (runAlone n (.din i) s = .next t → t.gpio = s.gpio)

/-- R245 and program P4: the unlocked first read of DOUT inside another context's locked DIN. Both commands answer OK and the pin ends
as an input. -/
def Obligations.FastPathInsideLockedDin : Prop :=
  ∀ (i : Byte) (v : Bool) (s : State), 2 ≤ s.ctxs.length → s.constructed = true → s.override = true → s.lock = none →
    s.params.layout.wellFormed = true → isOutputEnabled s.params (s.gpioStored i.toNat) = true →
    (s.ctx 0).busy = true → (s.ctx 0).cmd = encode (.dout i v) → (s.ctx 0).phase = 0 →
    (s.ctx 1).busy = true → (s.ctx 1).cmd = encode (.din i) → (s.ctx 1).phase = 0 →
    s.agenda = [.run 1, .run 1, .run 0, .run 1, .run 1] →
    ∃ t : State, Host.Core.run Sys2Proof.core 5 s = .next t ∧
      (t.ctx 0).busy = false ∧ (t.ctx 0).rsp = ⟨0, 0⟩ ∧ (t.ctx 1).busy = false ∧ (t.ctx 1).rsp = ⟨0, 0⟩ ∧
      isOutputEnabled s.params (t.gpioStored i.toNat) = false ∧ t.lock = none

/-! ## Invariants -/

/-- R45, R148: the reset state meets the invariant and the lifecycle invariant, and keeps the callers' discipline. -/
def Obligations.ResetStateMeetsInvariants : Prop :=
  Inv State.reset ∧ LifecycleInv State.reset ∧ Orderly State.reset

/-- The invariant is kept by every step, whichever agent moves. -/
def Obligations.StepKeepsInvariant : Prop :=
  ∀ s t : State, Inv s → step s = .next t → Inv t

/-- From a state that meets the invariant every step has a next state: no Release without the lock (R77), no phase outside its table
(R41), no access outside the banks (R67, R68, R73). -/
def Obligations.InvariantStateNeverFaults : Prop :=
  ∀ s : State, Inv s → ∃ t, step s = .next t

/-- R23, R147, R149: while callers keep the discipline of R255 and R256, no partial controller is ever exposed. -/
def Obligations.LifecycleInvariantKept : Prop :=
  ∀ s t : State, Inv s → Orderly s → LifecycleInv s → step s = .next t → Orderly t → LifecycleInv t

/-- R75 (a), R260: locked sections are mutually exclusive; and when a run is over the lock is free. -/
def Obligations.OneLockedSectionAtATime : Prop :=
  (∀ (s : State) (c d : Nat), Inv s → (s.ctx c).inSection = true → (s.ctx d).inSection = true → c = d) ∧
  ∀ s : State, Inv s → s.runOver → s.lock = none

/-! ## Reset and the environment -/

/-- R240: GLC's reset input. The registers whose reset value R45 gives take it, commands in flight are dropped, the override is the
strap, and no device register is touched. -/
def Obligations.ResetInput : Prop :=
  ∀ (s : State) (rest : List Event), s.agenda = .reset :: rest → ∃ t, step s = .next t ∧
    t.constructed = false ∧ t.override = s.inputs.cfgUnsafe ∧ t.lock = none ∧ t.gpioRsv = false ∧ t.iomuxRsv = false ∧
    (∀ i, t.valid i = false) ∧ t.ctxs.length = s.ctxs.length ∧
    (∀ c, (t.ctx c).busy = false ∧ (t.ctx c).phase = 0 ∧ (t.ctx c).out = []) ∧
    t.gpio = s.gpio ∧ t.iomux = s.iomux ∧ t.pmidx = s.pmidx ∧ t.pmreg = s.pmreg ∧ t.inputs = s.inputs ∧ t.params = s.params

/-- R242: after a chipset reset a GPIO byte whose sticky bit was set keeps its stored bits, and any other byte is whatever the chipset
leaves; no register of GLC changes. -/
def Obligations.ChipsetResetKeepsSticky : Prop :=
  ∀ (s : State) (rest : List Event) (g m r : List Host.Cell) (x : Byte), s.agenda = .chipsetReset g m r x :: rest →
    ∃ t, step s = .next t ∧
      (∀ i, i < 256 → (s.gpioStored i).getLsbD s.params.layout.stickyBit = true → t.gpioStored i = s.gpioStored i) ∧
      (∀ i, i < 256 → (s.gpioStored i).getLsbD s.params.layout.stickyBit = false →
        t.gpioStored i = Memory.read g i &&& ~~~maskIn s.params.layout) ∧
      t.gpio.wf ∧ t.iomux.wf ∧ t.pmreg.wf ∧
      t = { s with agenda := rest, gpio := t.gpio, iomux := t.iomux, pmreg := t.pmreg, pmidx := t.pmidx }

/-- R82: with the default `EnvStep` other agents change nothing, and what the pads do changes only the pad levels. -/
def Obligations.EnvironmentByDefault : Prop :=
  ∀ (s : State) (rest : List Event) (i v : Byte) (level : Option Bool), s.params.envStep = Params.default.envStep →
    (s.agenda = .envGpio i v :: rest ∨ s.agenda = .envIomux i v :: rest ∨ s.agenda = .envPmidx v :: rest ∨
      s.agenda = .envPmreg i v :: rest → step s = .next { s with agenda := rest }) ∧
    (s.agenda = .pad i level :: rest → ∃ t, step s = .next t ∧ t.inputs.pads[i.toNat]? = some level ∧
      (∀ j : Nat, j ≠ i.toNat → t.inputs.pads[j]? = s.inputs.pads[j]?) ∧
      t = { s with agenda := rest, inputs := { s.inputs with pads := t.inputs.pads } })

/-- The model's order of turns when the agenda is empty (log 3): if any context has something to do, one that has moves, and it is the
first such after the one that ran last. -/
def Obligations.EmptyAgendaIsFair : Prop :=
  ∀ (s : State) (c : Nat), c < s.ctxs.length → s.active c = true →
    s.nextTurn < s.ctxs.length ∧ s.active s.nextTurn = true ∧
    ∀ j, j < s.ctxs.length → s.active ((s.cur + 1 + j) % s.ctxs.length) = true →
      ∃ k, k ≤ j ∧ s.nextTurn = (s.cur + 1 + k) % s.ctxs.length
end

