-- ==== Sys2Proof/Laws/State.lean ====
section
/-! SUPPORT. For each named write of the state, what each field is after it: one lemma a field, true by `rfl`. No later proof unfolds
a record update. -/

namespace Sys2Proof.Machine

@[simp] theorem State.setLock_gpioBase (s : State) (l : Option Nat) : (s.setLock l).gpioBase = s.gpioBase := rfl
@[simp] theorem State.setLock_iomuxBase (s : State) (l : Option Nat) : (s.setLock l).iomuxBase = s.iomuxBase := rfl
@[simp] theorem State.setLock_constructed (s : State) (l : Option Nat) : (s.setLock l).constructed = s.constructed := rfl
@[simp] theorem State.setLock_override (s : State) (l : Option Nat) : (s.setLock l).override = s.override := rfl
@[simp] theorem State.setLock_lock (s : State) (l : Option Nat) : (s.setLock l).lock = l := rfl
@[simp] theorem State.setLock_gpioRsv (s : State) (l : Option Nat) : (s.setLock l).gpioRsv = s.gpioRsv := rfl
@[simp] theorem State.setLock_iomuxRsv (s : State) (l : Option Nat) : (s.setLock l).iomuxRsv = s.iomuxRsv := rfl
@[simp] theorem State.setLock_locRaw (s : State) (l : Option Nat) : (s.setLock l).locRaw = s.locRaw := rfl
@[simp] theorem State.setLock_origValid (s : State) (l : Option Nat) : (s.setLock l).origValid = s.origValid := rfl
@[simp] theorem State.setLock_origVal (s : State) (l : Option Nat) : (s.setLock l).origVal = s.origVal := rfl
@[simp] theorem State.setLock_gpio (s : State) (l : Option Nat) : (s.setLock l).gpio = s.gpio := rfl
@[simp] theorem State.setLock_iomux (s : State) (l : Option Nat) : (s.setLock l).iomux = s.iomux := rfl
@[simp] theorem State.setLock_pmidx (s : State) (l : Option Nat) : (s.setLock l).pmidx = s.pmidx := rfl
@[simp] theorem State.setLock_pmreg (s : State) (l : Option Nat) : (s.setLock l).pmreg = s.pmreg := rfl
@[simp] theorem State.setLock_ctxs (s : State) (l : Option Nat) : (s.setLock l).ctxs = s.ctxs := rfl
@[simp] theorem State.setLock_inputs (s : State) (l : Option Nat) : (s.setLock l).inputs = s.inputs := rfl
@[simp] theorem State.setLock_params (s : State) (l : Option Nat) : (s.setLock l).params = s.params := rfl
@[simp] theorem State.setLock_cur (s : State) (l : Option Nat) : (s.setLock l).cur = s.cur := rfl
@[simp] theorem State.setLock_agenda (s : State) (l : Option Nat) : (s.setLock l).agenda = s.agenda := rfl
@[simp] theorem State.setLock_callers (s : State) (l : Option Nat) : (s.setLock l).callers = s.callers := rfl
@[simp] theorem State.setLock_draws (s : State) (l : Option Nat) : (s.setLock l).draws = s.draws := rfl
@[simp] theorem State.setLock_ctx (s : State) (l : Option Nat) (q : Nat) : (s.setLock l).ctx q = s.ctx q := rfl
@[simp] theorem State.setLock_self (s : State) (l : Option Nat) : (s.setLock l).self = s.self := rfl
@[simp] theorem State.setLock_valid (s : State) (l : Option Nat) (j : Nat) : (s.setLock l).valid j = s.valid j := rfl
@[simp] theorem State.setLock_skip (s : State) (l : Option Nat) (j : Nat) : (s.setLock l).skip j = s.skip j := rfl
@[simp] theorem State.setLock_saved (s : State) (l : Option Nat) (j : Nat) : (s.setLock l).saved j = s.saved j := rfl
@[simp] theorem State.setLock_gpioStored (s : State) (l : Option Nat) (j : Nat) : (s.setLock l).gpioStored j = s.gpioStored j := rfl
@[simp] theorem State.setLock_locate (s : State) (l : Option Nat) (q : Nat) : (s.setLock l).locate q = s.locate q := rfl
@[simp] theorem State.setLock_gpioSampled (s : State) (l : Option Nat) (j : Nat) : (s.setLock l).gpioSampled j = s.gpioSampled j := rfl
@[simp] theorem State.setLock_arbiterGrants (s : State) (l : Option Nat) (q r : Nat) : (s.setLock l).arbiterGrants q r = s.arbiterGrants q r := rfl

@[simp] theorem State.setPmidx_gpioBase (s : State) (v : Byte) : (s.setPmidx v).gpioBase = s.gpioBase := rfl
@[simp] theorem State.setPmidx_iomuxBase (s : State) (v : Byte) : (s.setPmidx v).iomuxBase = s.iomuxBase := rfl
@[simp] theorem State.setPmidx_constructed (s : State) (v : Byte) : (s.setPmidx v).constructed = s.constructed := rfl
@[simp] theorem State.setPmidx_override (s : State) (v : Byte) : (s.setPmidx v).override = s.override := rfl
@[simp] theorem State.setPmidx_lock (s : State) (v : Byte) : (s.setPmidx v).lock = s.lock := rfl
@[simp] theorem State.setPmidx_gpioRsv (s : State) (v : Byte) : (s.setPmidx v).gpioRsv = s.gpioRsv := rfl
@[simp] theorem State.setPmidx_iomuxRsv (s : State) (v : Byte) : (s.setPmidx v).iomuxRsv = s.iomuxRsv := rfl
@[simp] theorem State.setPmidx_locRaw (s : State) (v : Byte) : (s.setPmidx v).locRaw = s.locRaw := rfl
@[simp] theorem State.setPmidx_origValid (s : State) (v : Byte) : (s.setPmidx v).origValid = s.origValid := rfl
@[simp] theorem State.setPmidx_origVal (s : State) (v : Byte) : (s.setPmidx v).origVal = s.origVal := rfl
@[simp] theorem State.setPmidx_gpio (s : State) (v : Byte) : (s.setPmidx v).gpio = s.gpio := rfl
@[simp] theorem State.setPmidx_iomux (s : State) (v : Byte) : (s.setPmidx v).iomux = s.iomux := rfl
@[simp] theorem State.setPmidx_pmidx (s : State) (v : Byte) : (s.setPmidx v).pmidx = v := rfl
@[simp] theorem State.setPmidx_pmreg (s : State) (v : Byte) : (s.setPmidx v).pmreg = s.pmreg := rfl
@[simp] theorem State.setPmidx_ctxs (s : State) (v : Byte) : (s.setPmidx v).ctxs = s.ctxs := rfl
@[simp] theorem State.setPmidx_inputs (s : State) (v : Byte) : (s.setPmidx v).inputs = s.inputs := rfl
@[simp] theorem State.setPmidx_params (s : State) (v : Byte) : (s.setPmidx v).params = s.params := rfl
@[simp] theorem State.setPmidx_cur (s : State) (v : Byte) : (s.setPmidx v).cur = s.cur := rfl
@[simp] theorem State.setPmidx_agenda (s : State) (v : Byte) : (s.setPmidx v).agenda = s.agenda := rfl
@[simp] theorem State.setPmidx_callers (s : State) (v : Byte) : (s.setPmidx v).callers = s.callers := rfl
@[simp] theorem State.setPmidx_draws (s : State) (v : Byte) : (s.setPmidx v).draws = s.draws := rfl
@[simp] theorem State.setPmidx_ctx (s : State) (v : Byte) (q : Nat) : (s.setPmidx v).ctx q = s.ctx q := rfl
@[simp] theorem State.setPmidx_self (s : State) (v : Byte) : (s.setPmidx v).self = s.self := rfl
@[simp] theorem State.setPmidx_valid (s : State) (v : Byte) (j : Nat) : (s.setPmidx v).valid j = s.valid j := rfl
@[simp] theorem State.setPmidx_skip (s : State) (v : Byte) (j : Nat) : (s.setPmidx v).skip j = s.skip j := rfl
@[simp] theorem State.setPmidx_saved (s : State) (v : Byte) (j : Nat) : (s.setPmidx v).saved j = s.saved j := rfl
@[simp] theorem State.setPmidx_gpioStored (s : State) (v : Byte) (j : Nat) : (s.setPmidx v).gpioStored j = s.gpioStored j := rfl
@[simp] theorem State.setPmidx_locate (s : State) (v : Byte) (q : Nat) : (s.setPmidx v).locate q = s.locate q := rfl
@[simp] theorem State.setPmidx_gpioSampled (s : State) (v : Byte) (j : Nat) : (s.setPmidx v).gpioSampled j = s.gpioSampled j := rfl
@[simp] theorem State.setPmidx_arbiterGrants (s : State) (v : Byte) (q r : Nat) : (s.setPmidx v).arbiterGrants q r = s.arbiterGrants q r := rfl

@[simp] theorem State.setLocRaw_gpioBase (s : State) (v : BitVec 32) : (s.setLocRaw v).gpioBase = s.gpioBase := rfl
@[simp] theorem State.setLocRaw_iomuxBase (s : State) (v : BitVec 32) : (s.setLocRaw v).iomuxBase = s.iomuxBase := rfl
@[simp] theorem State.setLocRaw_constructed (s : State) (v : BitVec 32) : (s.setLocRaw v).constructed = s.constructed := rfl
@[simp] theorem State.setLocRaw_override (s : State) (v : BitVec 32) : (s.setLocRaw v).override = s.override := rfl
@[simp] theorem State.setLocRaw_lock (s : State) (v : BitVec 32) : (s.setLocRaw v).lock = s.lock := rfl
@[simp] theorem State.setLocRaw_gpioRsv (s : State) (v : BitVec 32) : (s.setLocRaw v).gpioRsv = s.gpioRsv := rfl
@[simp] theorem State.setLocRaw_iomuxRsv (s : State) (v : BitVec 32) : (s.setLocRaw v).iomuxRsv = s.iomuxRsv := rfl
@[simp] theorem State.setLocRaw_locRaw (s : State) (v : BitVec 32) : (s.setLocRaw v).locRaw = v := rfl
@[simp] theorem State.setLocRaw_origValid (s : State) (v : BitVec 32) : (s.setLocRaw v).origValid = s.origValid := rfl
@[simp] theorem State.setLocRaw_origVal (s : State) (v : BitVec 32) : (s.setLocRaw v).origVal = s.origVal := rfl
@[simp] theorem State.setLocRaw_gpio (s : State) (v : BitVec 32) : (s.setLocRaw v).gpio = s.gpio := rfl
@[simp] theorem State.setLocRaw_iomux (s : State) (v : BitVec 32) : (s.setLocRaw v).iomux = s.iomux := rfl
@[simp] theorem State.setLocRaw_pmidx (s : State) (v : BitVec 32) : (s.setLocRaw v).pmidx = s.pmidx := rfl
@[simp] theorem State.setLocRaw_pmreg (s : State) (v : BitVec 32) : (s.setLocRaw v).pmreg = s.pmreg := rfl
@[simp] theorem State.setLocRaw_ctxs (s : State) (v : BitVec 32) : (s.setLocRaw v).ctxs = s.ctxs := rfl
@[simp] theorem State.setLocRaw_inputs (s : State) (v : BitVec 32) : (s.setLocRaw v).inputs = s.inputs := rfl
@[simp] theorem State.setLocRaw_params (s : State) (v : BitVec 32) : (s.setLocRaw v).params = s.params := rfl
@[simp] theorem State.setLocRaw_cur (s : State) (v : BitVec 32) : (s.setLocRaw v).cur = s.cur := rfl
@[simp] theorem State.setLocRaw_agenda (s : State) (v : BitVec 32) : (s.setLocRaw v).agenda = s.agenda := rfl
@[simp] theorem State.setLocRaw_callers (s : State) (v : BitVec 32) : (s.setLocRaw v).callers = s.callers := rfl
@[simp] theorem State.setLocRaw_draws (s : State) (v : BitVec 32) : (s.setLocRaw v).draws = s.draws := rfl
@[simp] theorem State.setLocRaw_ctx (s : State) (v : BitVec 32) (q : Nat) : (s.setLocRaw v).ctx q = s.ctx q := rfl
@[simp] theorem State.setLocRaw_self (s : State) (v : BitVec 32) : (s.setLocRaw v).self = s.self := rfl
@[simp] theorem State.setLocRaw_valid (s : State) (v : BitVec 32) (j : Nat) : (s.setLocRaw v).valid j = s.valid j := rfl
@[simp] theorem State.setLocRaw_skip (s : State) (v : BitVec 32) (j : Nat) : (s.setLocRaw v).skip j = s.skip j := rfl
@[simp] theorem State.setLocRaw_saved (s : State) (v : BitVec 32) (j : Nat) : (s.setLocRaw v).saved j = s.saved j := rfl
@[simp] theorem State.setLocRaw_gpioStored (s : State) (v : BitVec 32) (j : Nat) : (s.setLocRaw v).gpioStored j = s.gpioStored j := rfl
@[simp] theorem State.setLocRaw_locate (s : State) (v : BitVec 32) (q : Nat) : (s.setLocRaw v).locate q = s.locate q := rfl
@[simp] theorem State.setLocRaw_gpioSampled (s : State) (v : BitVec 32) (j : Nat) : (s.setLocRaw v).gpioSampled j = s.gpioSampled j := rfl
@[simp] theorem State.setLocRaw_arbiterGrants (s : State) (v : BitVec 32) (q r : Nat) : (s.setLocRaw v).arbiterGrants q r = s.arbiterGrants q r := rfl

@[simp] theorem State.setBases_gpioBase (s : State) (g m : Base) : (s.setBases g m).gpioBase = g := rfl
@[simp] theorem State.setBases_iomuxBase (s : State) (g m : Base) : (s.setBases g m).iomuxBase = m := rfl
@[simp] theorem State.setBases_constructed (s : State) (g m : Base) : (s.setBases g m).constructed = s.constructed := rfl
@[simp] theorem State.setBases_override (s : State) (g m : Base) : (s.setBases g m).override = s.override := rfl
@[simp] theorem State.setBases_lock (s : State) (g m : Base) : (s.setBases g m).lock = s.lock := rfl
@[simp] theorem State.setBases_gpioRsv (s : State) (g m : Base) : (s.setBases g m).gpioRsv = s.gpioRsv := rfl
@[simp] theorem State.setBases_iomuxRsv (s : State) (g m : Base) : (s.setBases g m).iomuxRsv = s.iomuxRsv := rfl
@[simp] theorem State.setBases_locRaw (s : State) (g m : Base) : (s.setBases g m).locRaw = s.locRaw := rfl
@[simp] theorem State.setBases_origValid (s : State) (g m : Base) : (s.setBases g m).origValid = s.origValid := rfl
@[simp] theorem State.setBases_origVal (s : State) (g m : Base) : (s.setBases g m).origVal = s.origVal := rfl
@[simp] theorem State.setBases_gpio (s : State) (g m : Base) : (s.setBases g m).gpio = s.gpio := rfl
@[simp] theorem State.setBases_iomux (s : State) (g m : Base) : (s.setBases g m).iomux = s.iomux := rfl
@[simp] theorem State.setBases_pmidx (s : State) (g m : Base) : (s.setBases g m).pmidx = s.pmidx := rfl
@[simp] theorem State.setBases_pmreg (s : State) (g m : Base) : (s.setBases g m).pmreg = s.pmreg := rfl
@[simp] theorem State.setBases_ctxs (s : State) (g m : Base) : (s.setBases g m).ctxs = s.ctxs := rfl
@[simp] theorem State.setBases_inputs (s : State) (g m : Base) : (s.setBases g m).inputs = s.inputs := rfl
@[simp] theorem State.setBases_params (s : State) (g m : Base) : (s.setBases g m).params = s.params := rfl
@[simp] theorem State.setBases_cur (s : State) (g m : Base) : (s.setBases g m).cur = s.cur := rfl
@[simp] theorem State.setBases_agenda (s : State) (g m : Base) : (s.setBases g m).agenda = s.agenda := rfl
@[simp] theorem State.setBases_callers (s : State) (g m : Base) : (s.setBases g m).callers = s.callers := rfl
@[simp] theorem State.setBases_draws (s : State) (g m : Base) : (s.setBases g m).draws = s.draws := rfl
@[simp] theorem State.setBases_ctx (s : State) (g m : Base) (q : Nat) : (s.setBases g m).ctx q = s.ctx q := rfl
@[simp] theorem State.setBases_self (s : State) (g m : Base) : (s.setBases g m).self = s.self := rfl
@[simp] theorem State.setBases_valid (s : State) (g m : Base) (j : Nat) : (s.setBases g m).valid j = s.valid j := rfl
@[simp] theorem State.setBases_skip (s : State) (g m : Base) (j : Nat) : (s.setBases g m).skip j = s.skip j := rfl
@[simp] theorem State.setBases_saved (s : State) (g m : Base) (j : Nat) : (s.setBases g m).saved j = s.saved j := rfl
@[simp] theorem State.setBases_gpioStored (s : State) (g m : Base) (j : Nat) : (s.setBases g m).gpioStored j = s.gpioStored j := rfl
@[simp] theorem State.setBases_gpioSampled (s : State) (g m : Base) (j : Nat) : (s.setBases g m).gpioSampled j = s.gpioSampled j := rfl
@[simp] theorem State.setBases_arbiterGrants (s : State) (g m : Base) (q r : Nat) : (s.setBases g m).arbiterGrants q r = s.arbiterGrants q r := rfl

@[simp] theorem State.setGpioRsv_gpioBase (s : State) (v : Bool) : (s.setGpioRsv v).gpioBase = s.gpioBase := rfl
@[simp] theorem State.setGpioRsv_iomuxBase (s : State) (v : Bool) : (s.setGpioRsv v).iomuxBase = s.iomuxBase := rfl
@[simp] theorem State.setGpioRsv_constructed (s : State) (v : Bool) : (s.setGpioRsv v).constructed = s.constructed := rfl
@[simp] theorem State.setGpioRsv_override (s : State) (v : Bool) : (s.setGpioRsv v).override = s.override := rfl
@[simp] theorem State.setGpioRsv_lock (s : State) (v : Bool) : (s.setGpioRsv v).lock = s.lock := rfl
@[simp] theorem State.setGpioRsv_gpioRsv (s : State) (v : Bool) : (s.setGpioRsv v).gpioRsv = v := rfl
@[simp] theorem State.setGpioRsv_iomuxRsv (s : State) (v : Bool) : (s.setGpioRsv v).iomuxRsv = s.iomuxRsv := rfl
@[simp] theorem State.setGpioRsv_locRaw (s : State) (v : Bool) : (s.setGpioRsv v).locRaw = s.locRaw := rfl
@[simp] theorem State.setGpioRsv_origValid (s : State) (v : Bool) : (s.setGpioRsv v).origValid = s.origValid := rfl
@[simp] theorem State.setGpioRsv_origVal (s : State) (v : Bool) : (s.setGpioRsv v).origVal = s.origVal := rfl
@[simp] theorem State.setGpioRsv_gpio (s : State) (v : Bool) : (s.setGpioRsv v).gpio = s.gpio := rfl
@[simp] theorem State.setGpioRsv_iomux (s : State) (v : Bool) : (s.setGpioRsv v).iomux = s.iomux := rfl
@[simp] theorem State.setGpioRsv_pmidx (s : State) (v : Bool) : (s.setGpioRsv v).pmidx = s.pmidx := rfl
@[simp] theorem State.setGpioRsv_pmreg (s : State) (v : Bool) : (s.setGpioRsv v).pmreg = s.pmreg := rfl
@[simp] theorem State.setGpioRsv_ctxs (s : State) (v : Bool) : (s.setGpioRsv v).ctxs = s.ctxs := rfl
@[simp] theorem State.setGpioRsv_inputs (s : State) (v : Bool) : (s.setGpioRsv v).inputs = s.inputs := rfl
@[simp] theorem State.setGpioRsv_params (s : State) (v : Bool) : (s.setGpioRsv v).params = s.params := rfl
@[simp] theorem State.setGpioRsv_cur (s : State) (v : Bool) : (s.setGpioRsv v).cur = s.cur := rfl
@[simp] theorem State.setGpioRsv_agenda (s : State) (v : Bool) : (s.setGpioRsv v).agenda = s.agenda := rfl
@[simp] theorem State.setGpioRsv_callers (s : State) (v : Bool) : (s.setGpioRsv v).callers = s.callers := rfl
@[simp] theorem State.setGpioRsv_draws (s : State) (v : Bool) : (s.setGpioRsv v).draws = s.draws := rfl
@[simp] theorem State.setGpioRsv_ctx (s : State) (v : Bool) (q : Nat) : (s.setGpioRsv v).ctx q = s.ctx q := rfl
@[simp] theorem State.setGpioRsv_self (s : State) (v : Bool) : (s.setGpioRsv v).self = s.self := rfl
@[simp] theorem State.setGpioRsv_valid (s : State) (v : Bool) (j : Nat) : (s.setGpioRsv v).valid j = s.valid j := rfl
@[simp] theorem State.setGpioRsv_skip (s : State) (v : Bool) (j : Nat) : (s.setGpioRsv v).skip j = s.skip j := rfl
@[simp] theorem State.setGpioRsv_saved (s : State) (v : Bool) (j : Nat) : (s.setGpioRsv v).saved j = s.saved j := rfl
@[simp] theorem State.setGpioRsv_gpioStored (s : State) (v : Bool) (j : Nat) : (s.setGpioRsv v).gpioStored j = s.gpioStored j := rfl
@[simp] theorem State.setGpioRsv_locate (s : State) (v : Bool) (q : Nat) : (s.setGpioRsv v).locate q = s.locate q := rfl
@[simp] theorem State.setGpioRsv_gpioSampled (s : State) (v : Bool) (j : Nat) : (s.setGpioRsv v).gpioSampled j = s.gpioSampled j := rfl
@[simp] theorem State.setGpioRsv_arbiterGrants (s : State) (v : Bool) (q r : Nat) : (s.setGpioRsv v).arbiterGrants q r = s.arbiterGrants q r := rfl

@[simp] theorem State.setIomuxRsv_gpioBase (s : State) (v : Bool) : (s.setIomuxRsv v).gpioBase = s.gpioBase := rfl
@[simp] theorem State.setIomuxRsv_iomuxBase (s : State) (v : Bool) : (s.setIomuxRsv v).iomuxBase = s.iomuxBase := rfl
@[simp] theorem State.setIomuxRsv_constructed (s : State) (v : Bool) : (s.setIomuxRsv v).constructed = s.constructed := rfl
@[simp] theorem State.setIomuxRsv_override (s : State) (v : Bool) : (s.setIomuxRsv v).override = s.override := rfl
@[simp] theorem State.setIomuxRsv_lock (s : State) (v : Bool) : (s.setIomuxRsv v).lock = s.lock := rfl
@[simp] theorem State.setIomuxRsv_gpioRsv (s : State) (v : Bool) : (s.setIomuxRsv v).gpioRsv = s.gpioRsv := rfl
@[simp] theorem State.setIomuxRsv_iomuxRsv (s : State) (v : Bool) : (s.setIomuxRsv v).iomuxRsv = v := rfl
@[simp] theorem State.setIomuxRsv_locRaw (s : State) (v : Bool) : (s.setIomuxRsv v).locRaw = s.locRaw := rfl
@[simp] theorem State.setIomuxRsv_origValid (s : State) (v : Bool) : (s.setIomuxRsv v).origValid = s.origValid := rfl
@[simp] theorem State.setIomuxRsv_origVal (s : State) (v : Bool) : (s.setIomuxRsv v).origVal = s.origVal := rfl
@[simp] theorem State.setIomuxRsv_gpio (s : State) (v : Bool) : (s.setIomuxRsv v).gpio = s.gpio := rfl
@[simp] theorem State.setIomuxRsv_iomux (s : State) (v : Bool) : (s.setIomuxRsv v).iomux = s.iomux := rfl
@[simp] theorem State.setIomuxRsv_pmidx (s : State) (v : Bool) : (s.setIomuxRsv v).pmidx = s.pmidx := rfl
@[simp] theorem State.setIomuxRsv_pmreg (s : State) (v : Bool) : (s.setIomuxRsv v).pmreg = s.pmreg := rfl
@[simp] theorem State.setIomuxRsv_ctxs (s : State) (v : Bool) : (s.setIomuxRsv v).ctxs = s.ctxs := rfl
@[simp] theorem State.setIomuxRsv_inputs (s : State) (v : Bool) : (s.setIomuxRsv v).inputs = s.inputs := rfl
@[simp] theorem State.setIomuxRsv_params (s : State) (v : Bool) : (s.setIomuxRsv v).params = s.params := rfl
@[simp] theorem State.setIomuxRsv_cur (s : State) (v : Bool) : (s.setIomuxRsv v).cur = s.cur := rfl
@[simp] theorem State.setIomuxRsv_agenda (s : State) (v : Bool) : (s.setIomuxRsv v).agenda = s.agenda := rfl
@[simp] theorem State.setIomuxRsv_callers (s : State) (v : Bool) : (s.setIomuxRsv v).callers = s.callers := rfl
@[simp] theorem State.setIomuxRsv_draws (s : State) (v : Bool) : (s.setIomuxRsv v).draws = s.draws := rfl
@[simp] theorem State.setIomuxRsv_ctx (s : State) (v : Bool) (q : Nat) : (s.setIomuxRsv v).ctx q = s.ctx q := rfl
@[simp] theorem State.setIomuxRsv_self (s : State) (v : Bool) : (s.setIomuxRsv v).self = s.self := rfl
@[simp] theorem State.setIomuxRsv_valid (s : State) (v : Bool) (j : Nat) : (s.setIomuxRsv v).valid j = s.valid j := rfl
@[simp] theorem State.setIomuxRsv_skip (s : State) (v : Bool) (j : Nat) : (s.setIomuxRsv v).skip j = s.skip j := rfl
@[simp] theorem State.setIomuxRsv_saved (s : State) (v : Bool) (j : Nat) : (s.setIomuxRsv v).saved j = s.saved j := rfl
@[simp] theorem State.setIomuxRsv_gpioStored (s : State) (v : Bool) (j : Nat) : (s.setIomuxRsv v).gpioStored j = s.gpioStored j := rfl
@[simp] theorem State.setIomuxRsv_locate (s : State) (v : Bool) (q : Nat) : (s.setIomuxRsv v).locate q = s.locate q := rfl
@[simp] theorem State.setIomuxRsv_gpioSampled (s : State) (v : Bool) (j : Nat) : (s.setIomuxRsv v).gpioSampled j = s.gpioSampled j := rfl
@[simp] theorem State.setIomuxRsv_arbiterGrants (s : State) (v : Bool) (q r : Nat) : (s.setIomuxRsv v).arbiterGrants q r = s.arbiterGrants q r := rfl

@[simp] theorem State.setConstructed_gpioBase (s : State) (v : Bool) : (s.setConstructed v).gpioBase = s.gpioBase := rfl
@[simp] theorem State.setConstructed_iomuxBase (s : State) (v : Bool) : (s.setConstructed v).iomuxBase = s.iomuxBase := rfl
@[simp] theorem State.setConstructed_constructed (s : State) (v : Bool) : (s.setConstructed v).constructed = v := rfl
@[simp] theorem State.setConstructed_override (s : State) (v : Bool) : (s.setConstructed v).override = s.override := rfl
@[simp] theorem State.setConstructed_lock (s : State) (v : Bool) : (s.setConstructed v).lock = s.lock := rfl
@[simp] theorem State.setConstructed_gpioRsv (s : State) (v : Bool) : (s.setConstructed v).gpioRsv = s.gpioRsv := rfl
@[simp] theorem State.setConstructed_iomuxRsv (s : State) (v : Bool) : (s.setConstructed v).iomuxRsv = s.iomuxRsv := rfl
@[simp] theorem State.setConstructed_locRaw (s : State) (v : Bool) : (s.setConstructed v).locRaw = s.locRaw := rfl
@[simp] theorem State.setConstructed_origValid (s : State) (v : Bool) : (s.setConstructed v).origValid = s.origValid := rfl
@[simp] theorem State.setConstructed_origVal (s : State) (v : Bool) : (s.setConstructed v).origVal = s.origVal := rfl
@[simp] theorem State.setConstructed_gpio (s : State) (v : Bool) : (s.setConstructed v).gpio = s.gpio := rfl
@[simp] theorem State.setConstructed_iomux (s : State) (v : Bool) : (s.setConstructed v).iomux = s.iomux := rfl
@[simp] theorem State.setConstructed_pmidx (s : State) (v : Bool) : (s.setConstructed v).pmidx = s.pmidx := rfl
@[simp] theorem State.setConstructed_pmreg (s : State) (v : Bool) : (s.setConstructed v).pmreg = s.pmreg := rfl
@[simp] theorem State.setConstructed_ctxs (s : State) (v : Bool) : (s.setConstructed v).ctxs = s.ctxs := rfl
@[simp] theorem State.setConstructed_inputs (s : State) (v : Bool) : (s.setConstructed v).inputs = s.inputs := rfl
@[simp] theorem State.setConstructed_params (s : State) (v : Bool) : (s.setConstructed v).params = s.params := rfl
@[simp] theorem State.setConstructed_cur (s : State) (v : Bool) : (s.setConstructed v).cur = s.cur := rfl
@[simp] theorem State.setConstructed_agenda (s : State) (v : Bool) : (s.setConstructed v).agenda = s.agenda := rfl
@[simp] theorem State.setConstructed_callers (s : State) (v : Bool) : (s.setConstructed v).callers = s.callers := rfl
@[simp] theorem State.setConstructed_draws (s : State) (v : Bool) : (s.setConstructed v).draws = s.draws := rfl
@[simp] theorem State.setConstructed_ctx (s : State) (v : Bool) (q : Nat) : (s.setConstructed v).ctx q = s.ctx q := rfl
@[simp] theorem State.setConstructed_self (s : State) (v : Bool) : (s.setConstructed v).self = s.self := rfl
@[simp] theorem State.setConstructed_valid (s : State) (v : Bool) (j : Nat) : (s.setConstructed v).valid j = s.valid j := rfl
@[simp] theorem State.setConstructed_skip (s : State) (v : Bool) (j : Nat) : (s.setConstructed v).skip j = s.skip j := rfl
@[simp] theorem State.setConstructed_saved (s : State) (v : Bool) (j : Nat) : (s.setConstructed v).saved j = s.saved j := rfl
@[simp] theorem State.setConstructed_gpioStored (s : State) (v : Bool) (j : Nat) : (s.setConstructed v).gpioStored j = s.gpioStored j := rfl
@[simp] theorem State.setConstructed_locate (s : State) (v : Bool) (q : Nat) : (s.setConstructed v).locate q = s.locate q := rfl
@[simp] theorem State.setConstructed_gpioSampled (s : State) (v : Bool) (j : Nat) : (s.setConstructed v).gpioSampled j = s.gpioSampled j := rfl
@[simp] theorem State.setConstructed_arbiterGrants (s : State) (v : Bool) (q r : Nat) : (s.setConstructed v).arbiterGrants q r = s.arbiterGrants q r := rfl

@[simp] theorem State.drew_gpioBase (s : State) : (s.drew).gpioBase = s.gpioBase := rfl
@[simp] theorem State.drew_iomuxBase (s : State) : (s.drew).iomuxBase = s.iomuxBase := rfl
@[simp] theorem State.drew_constructed (s : State) : (s.drew).constructed = s.constructed := rfl
@[simp] theorem State.drew_override (s : State) : (s.drew).override = s.override := rfl
@[simp] theorem State.drew_lock (s : State) : (s.drew).lock = s.lock := rfl
@[simp] theorem State.drew_gpioRsv (s : State) : (s.drew).gpioRsv = s.gpioRsv := rfl
@[simp] theorem State.drew_iomuxRsv (s : State) : (s.drew).iomuxRsv = s.iomuxRsv := rfl
@[simp] theorem State.drew_locRaw (s : State) : (s.drew).locRaw = s.locRaw := rfl
@[simp] theorem State.drew_origValid (s : State) : (s.drew).origValid = s.origValid := rfl
@[simp] theorem State.drew_origVal (s : State) : (s.drew).origVal = s.origVal := rfl
@[simp] theorem State.drew_gpio (s : State) : (s.drew).gpio = s.gpio := rfl
@[simp] theorem State.drew_iomux (s : State) : (s.drew).iomux = s.iomux := rfl
@[simp] theorem State.drew_pmidx (s : State) : (s.drew).pmidx = s.pmidx := rfl
@[simp] theorem State.drew_pmreg (s : State) : (s.drew).pmreg = s.pmreg := rfl
@[simp] theorem State.drew_ctxs (s : State) : (s.drew).ctxs = s.ctxs := rfl
@[simp] theorem State.drew_inputs (s : State) : (s.drew).inputs = s.inputs := rfl
@[simp] theorem State.drew_params (s : State) : (s.drew).params = s.params := rfl
@[simp] theorem State.drew_cur (s : State) : (s.drew).cur = s.cur := rfl
@[simp] theorem State.drew_agenda (s : State) : (s.drew).agenda = s.agenda := rfl
@[simp] theorem State.drew_callers (s : State) : (s.drew).callers = s.callers := rfl
@[simp] theorem State.drew_draws (s : State) : (s.drew).draws = s.draws + 1 := rfl
@[simp] theorem State.drew_ctx (s : State) (q : Nat) : (s.drew).ctx q = s.ctx q := rfl
@[simp] theorem State.drew_self (s : State) : (s.drew).self = s.self := rfl
@[simp] theorem State.drew_valid (s : State) (j : Nat) : (s.drew).valid j = s.valid j := rfl
@[simp] theorem State.drew_skip (s : State) (j : Nat) : (s.drew).skip j = s.skip j := rfl
@[simp] theorem State.drew_saved (s : State) (j : Nat) : (s.drew).saved j = s.saved j := rfl
@[simp] theorem State.drew_gpioStored (s : State) (j : Nat) : (s.drew).gpioStored j = s.gpioStored j := rfl
@[simp] theorem State.drew_locate (s : State) (q : Nat) : (s.drew).locate q = s.locate q := rfl

@[simp] theorem State.setCur_gpioBase (s : State) (c : Nat) : (s.setCur c).gpioBase = s.gpioBase := rfl
@[simp] theorem State.setCur_iomuxBase (s : State) (c : Nat) : (s.setCur c).iomuxBase = s.iomuxBase := rfl
@[simp] theorem State.setCur_constructed (s : State) (c : Nat) : (s.setCur c).constructed = s.constructed := rfl
@[simp] theorem State.setCur_override (s : State) (c : Nat) : (s.setCur c).override = s.override := rfl
@[simp] theorem State.setCur_lock (s : State) (c : Nat) : (s.setCur c).lock = s.lock := rfl
@[simp] theorem State.setCur_gpioRsv (s : State) (c : Nat) : (s.setCur c).gpioRsv = s.gpioRsv := rfl
@[simp] theorem State.setCur_iomuxRsv (s : State) (c : Nat) : (s.setCur c).iomuxRsv = s.iomuxRsv := rfl
@[simp] theorem State.setCur_locRaw (s : State) (c : Nat) : (s.setCur c).locRaw = s.locRaw := rfl
@[simp] theorem State.setCur_origValid (s : State) (c : Nat) : (s.setCur c).origValid = s.origValid := rfl
@[simp] theorem State.setCur_origVal (s : State) (c : Nat) : (s.setCur c).origVal = s.origVal := rfl
@[simp] theorem State.setCur_gpio (s : State) (c : Nat) : (s.setCur c).gpio = s.gpio := rfl
@[simp] theorem State.setCur_iomux (s : State) (c : Nat) : (s.setCur c).iomux = s.iomux := rfl
@[simp] theorem State.setCur_pmidx (s : State) (c : Nat) : (s.setCur c).pmidx = s.pmidx := rfl
@[simp] theorem State.setCur_pmreg (s : State) (c : Nat) : (s.setCur c).pmreg = s.pmreg := rfl
@[simp] theorem State.setCur_ctxs (s : State) (c : Nat) : (s.setCur c).ctxs = s.ctxs := rfl
@[simp] theorem State.setCur_inputs (s : State) (c : Nat) : (s.setCur c).inputs = s.inputs := rfl
@[simp] theorem State.setCur_params (s : State) (c : Nat) : (s.setCur c).params = s.params := rfl
@[simp] theorem State.setCur_cur (s : State) (c : Nat) : (s.setCur c).cur = c := rfl
@[simp] theorem State.setCur_agenda (s : State) (c : Nat) : (s.setCur c).agenda = s.agenda := rfl
@[simp] theorem State.setCur_callers (s : State) (c : Nat) : (s.setCur c).callers = s.callers := rfl
@[simp] theorem State.setCur_draws (s : State) (c : Nat) : (s.setCur c).draws = s.draws := rfl
@[simp] theorem State.setCur_ctx (s : State) (c : Nat) (q : Nat) : (s.setCur c).ctx q = s.ctx q := rfl
@[simp] theorem State.setCur_self (s : State) (c : Nat) : (s.setCur c).self = s.ctx c := rfl
@[simp] theorem State.setCur_valid (s : State) (c : Nat) (j : Nat) : (s.setCur c).valid j = s.valid j := rfl
@[simp] theorem State.setCur_skip (s : State) (c : Nat) (j : Nat) : (s.setCur c).skip j = s.skip j := rfl
@[simp] theorem State.setCur_saved (s : State) (c : Nat) (j : Nat) : (s.setCur c).saved j = s.saved j := rfl
@[simp] theorem State.setCur_gpioStored (s : State) (c : Nat) (j : Nat) : (s.setCur c).gpioStored j = s.gpioStored j := rfl
@[simp] theorem State.setCur_locate (s : State) (c : Nat) (q : Nat) : (s.setCur c).locate q = s.locate q := rfl
@[simp] theorem State.setCur_gpioSampled (s : State) (c : Nat) (j : Nat) : (s.setCur c).gpioSampled j = s.gpioSampled j := rfl
@[simp] theorem State.setCur_arbiterGrants (s : State) (c : Nat) (q r : Nat) : (s.setCur c).arbiterGrants q r = s.arbiterGrants q r := rfl

@[simp] theorem State.setAgenda_gpioBase (s : State) (a : List Event) : (s.setAgenda a).gpioBase = s.gpioBase := rfl
@[simp] theorem State.setAgenda_iomuxBase (s : State) (a : List Event) : (s.setAgenda a).iomuxBase = s.iomuxBase := rfl
@[simp] theorem State.setAgenda_constructed (s : State) (a : List Event) : (s.setAgenda a).constructed = s.constructed := rfl
@[simp] theorem State.setAgenda_override (s : State) (a : List Event) : (s.setAgenda a).override = s.override := rfl
@[simp] theorem State.setAgenda_lock (s : State) (a : List Event) : (s.setAgenda a).lock = s.lock := rfl
@[simp] theorem State.setAgenda_gpioRsv (s : State) (a : List Event) : (s.setAgenda a).gpioRsv = s.gpioRsv := rfl
@[simp] theorem State.setAgenda_iomuxRsv (s : State) (a : List Event) : (s.setAgenda a).iomuxRsv = s.iomuxRsv := rfl
@[simp] theorem State.setAgenda_locRaw (s : State) (a : List Event) : (s.setAgenda a).locRaw = s.locRaw := rfl
@[simp] theorem State.setAgenda_origValid (s : State) (a : List Event) : (s.setAgenda a).origValid = s.origValid := rfl
@[simp] theorem State.setAgenda_origVal (s : State) (a : List Event) : (s.setAgenda a).origVal = s.origVal := rfl
@[simp] theorem State.setAgenda_gpio (s : State) (a : List Event) : (s.setAgenda a).gpio = s.gpio := rfl
@[simp] theorem State.setAgenda_iomux (s : State) (a : List Event) : (s.setAgenda a).iomux = s.iomux := rfl
@[simp] theorem State.setAgenda_pmidx (s : State) (a : List Event) : (s.setAgenda a).pmidx = s.pmidx := rfl
@[simp] theorem State.setAgenda_pmreg (s : State) (a : List Event) : (s.setAgenda a).pmreg = s.pmreg := rfl
@[simp] theorem State.setAgenda_ctxs (s : State) (a : List Event) : (s.setAgenda a).ctxs = s.ctxs := rfl
@[simp] theorem State.setAgenda_inputs (s : State) (a : List Event) : (s.setAgenda a).inputs = s.inputs := rfl
@[simp] theorem State.setAgenda_params (s : State) (a : List Event) : (s.setAgenda a).params = s.params := rfl
@[simp] theorem State.setAgenda_cur (s : State) (a : List Event) : (s.setAgenda a).cur = s.cur := rfl
@[simp] theorem State.setAgenda_agenda (s : State) (a : List Event) : (s.setAgenda a).agenda = a := rfl
@[simp] theorem State.setAgenda_callers (s : State) (a : List Event) : (s.setAgenda a).callers = s.callers := rfl
@[simp] theorem State.setAgenda_draws (s : State) (a : List Event) : (s.setAgenda a).draws = s.draws := rfl
@[simp] theorem State.setAgenda_ctx (s : State) (a : List Event) (q : Nat) : (s.setAgenda a).ctx q = s.ctx q := rfl
@[simp] theorem State.setAgenda_self (s : State) (a : List Event) : (s.setAgenda a).self = s.self := rfl
@[simp] theorem State.setAgenda_valid (s : State) (a : List Event) (j : Nat) : (s.setAgenda a).valid j = s.valid j := rfl
@[simp] theorem State.setAgenda_skip (s : State) (a : List Event) (j : Nat) : (s.setAgenda a).skip j = s.skip j := rfl
@[simp] theorem State.setAgenda_saved (s : State) (a : List Event) (j : Nat) : (s.setAgenda a).saved j = s.saved j := rfl
@[simp] theorem State.setAgenda_gpioStored (s : State) (a : List Event) (j : Nat) : (s.setAgenda a).gpioStored j = s.gpioStored j := rfl
@[simp] theorem State.setAgenda_locate (s : State) (a : List Event) (q : Nat) : (s.setAgenda a).locate q = s.locate q := rfl
@[simp] theorem State.setAgenda_gpioSampled (s : State) (a : List Event) (j : Nat) : (s.setAgenda a).gpioSampled j = s.gpioSampled j := rfl
@[simp] theorem State.setAgenda_arbiterGrants (s : State) (a : List Event) (q r : Nat) : (s.setAgenda a).arbiterGrants q r = s.arbiterGrants q r := rfl

@[simp] theorem State.setCallers_gpioBase (s : State) (ws : List (List Word)) : (s.setCallers ws).gpioBase = s.gpioBase := rfl
@[simp] theorem State.setCallers_iomuxBase (s : State) (ws : List (List Word)) : (s.setCallers ws).iomuxBase = s.iomuxBase := rfl
@[simp] theorem State.setCallers_constructed (s : State) (ws : List (List Word)) : (s.setCallers ws).constructed = s.constructed := rfl
@[simp] theorem State.setCallers_override (s : State) (ws : List (List Word)) : (s.setCallers ws).override = s.override := rfl
@[simp] theorem State.setCallers_lock (s : State) (ws : List (List Word)) : (s.setCallers ws).lock = s.lock := rfl
@[simp] theorem State.setCallers_gpioRsv (s : State) (ws : List (List Word)) : (s.setCallers ws).gpioRsv = s.gpioRsv := rfl
@[simp] theorem State.setCallers_iomuxRsv (s : State) (ws : List (List Word)) : (s.setCallers ws).iomuxRsv = s.iomuxRsv := rfl
@[simp] theorem State.setCallers_locRaw (s : State) (ws : List (List Word)) : (s.setCallers ws).locRaw = s.locRaw := rfl
@[simp] theorem State.setCallers_origValid (s : State) (ws : List (List Word)) : (s.setCallers ws).origValid = s.origValid := rfl
@[simp] theorem State.setCallers_origVal (s : State) (ws : List (List Word)) : (s.setCallers ws).origVal = s.origVal := rfl
@[simp] theorem State.setCallers_gpio (s : State) (ws : List (List Word)) : (s.setCallers ws).gpio = s.gpio := rfl
@[simp] theorem State.setCallers_iomux (s : State) (ws : List (List Word)) : (s.setCallers ws).iomux = s.iomux := rfl
@[simp] theorem State.setCallers_pmidx (s : State) (ws : List (List Word)) : (s.setCallers ws).pmidx = s.pmidx := rfl
@[simp] theorem State.setCallers_pmreg (s : State) (ws : List (List Word)) : (s.setCallers ws).pmreg = s.pmreg := rfl
@[simp] theorem State.setCallers_ctxs (s : State) (ws : List (List Word)) : (s.setCallers ws).ctxs = s.ctxs := rfl
@[simp] theorem State.setCallers_inputs (s : State) (ws : List (List Word)) : (s.setCallers ws).inputs = s.inputs := rfl
@[simp] theorem State.setCallers_params (s : State) (ws : List (List Word)) : (s.setCallers ws).params = s.params := rfl
@[simp] theorem State.setCallers_cur (s : State) (ws : List (List Word)) : (s.setCallers ws).cur = s.cur := rfl
@[simp] theorem State.setCallers_agenda (s : State) (ws : List (List Word)) : (s.setCallers ws).agenda = s.agenda := rfl
@[simp] theorem State.setCallers_callers (s : State) (ws : List (List Word)) : (s.setCallers ws).callers = ws := rfl
@[simp] theorem State.setCallers_draws (s : State) (ws : List (List Word)) : (s.setCallers ws).draws = s.draws := rfl
@[simp] theorem State.setCallers_ctx (s : State) (ws : List (List Word)) (q : Nat) : (s.setCallers ws).ctx q = s.ctx q := rfl
@[simp] theorem State.setCallers_self (s : State) (ws : List (List Word)) : (s.setCallers ws).self = s.self := rfl
@[simp] theorem State.setCallers_valid (s : State) (ws : List (List Word)) (j : Nat) : (s.setCallers ws).valid j = s.valid j := rfl
@[simp] theorem State.setCallers_skip (s : State) (ws : List (List Word)) (j : Nat) : (s.setCallers ws).skip j = s.skip j := rfl
@[simp] theorem State.setCallers_saved (s : State) (ws : List (List Word)) (j : Nat) : (s.setCallers ws).saved j = s.saved j := rfl
@[simp] theorem State.setCallers_gpioStored (s : State) (ws : List (List Word)) (j : Nat) : (s.setCallers ws).gpioStored j = s.gpioStored j := rfl
@[simp] theorem State.setCallers_locate (s : State) (ws : List (List Word)) (q : Nat) : (s.setCallers ws).locate q = s.locate q := rfl
@[simp] theorem State.setCallers_gpioSampled (s : State) (ws : List (List Word)) (j : Nat) : (s.setCallers ws).gpioSampled j = s.gpioSampled j := rfl
@[simp] theorem State.setCallers_arbiterGrants (s : State) (ws : List (List Word)) (q r : Nat) : (s.setCallers ws).arbiterGrants q r = s.arbiterGrants q r := rfl

@[simp] theorem State.setInputs_gpioBase (s : State) (i : Inputs) : (s.setInputs i).gpioBase = s.gpioBase := rfl
@[simp] theorem State.setInputs_iomuxBase (s : State) (i : Inputs) : (s.setInputs i).iomuxBase = s.iomuxBase := rfl
@[simp] theorem State.setInputs_constructed (s : State) (i : Inputs) : (s.setInputs i).constructed = s.constructed := rfl
@[simp] theorem State.setInputs_override (s : State) (i : Inputs) : (s.setInputs i).override = s.override := rfl
@[simp] theorem State.setInputs_lock (s : State) (i : Inputs) : (s.setInputs i).lock = s.lock := rfl
@[simp] theorem State.setInputs_gpioRsv (s : State) (i : Inputs) : (s.setInputs i).gpioRsv = s.gpioRsv := rfl
@[simp] theorem State.setInputs_iomuxRsv (s : State) (i : Inputs) : (s.setInputs i).iomuxRsv = s.iomuxRsv := rfl
@[simp] theorem State.setInputs_locRaw (s : State) (i : Inputs) : (s.setInputs i).locRaw = s.locRaw := rfl
@[simp] theorem State.setInputs_origValid (s : State) (i : Inputs) : (s.setInputs i).origValid = s.origValid := rfl
@[simp] theorem State.setInputs_origVal (s : State) (i : Inputs) : (s.setInputs i).origVal = s.origVal := rfl
@[simp] theorem State.setInputs_gpio (s : State) (i : Inputs) : (s.setInputs i).gpio = s.gpio := rfl
@[simp] theorem State.setInputs_iomux (s : State) (i : Inputs) : (s.setInputs i).iomux = s.iomux := rfl
@[simp] theorem State.setInputs_pmidx (s : State) (i : Inputs) : (s.setInputs i).pmidx = s.pmidx := rfl
@[simp] theorem State.setInputs_pmreg (s : State) (i : Inputs) : (s.setInputs i).pmreg = s.pmreg := rfl
@[simp] theorem State.setInputs_ctxs (s : State) (i : Inputs) : (s.setInputs i).ctxs = s.ctxs := rfl
@[simp] theorem State.setInputs_inputs (s : State) (i : Inputs) : (s.setInputs i).inputs = i := rfl
@[simp] theorem State.setInputs_params (s : State) (i : Inputs) : (s.setInputs i).params = s.params := rfl
@[simp] theorem State.setInputs_cur (s : State) (i : Inputs) : (s.setInputs i).cur = s.cur := rfl
@[simp] theorem State.setInputs_agenda (s : State) (i : Inputs) : (s.setInputs i).agenda = s.agenda := rfl
@[simp] theorem State.setInputs_callers (s : State) (i : Inputs) : (s.setInputs i).callers = s.callers := rfl
@[simp] theorem State.setInputs_draws (s : State) (i : Inputs) : (s.setInputs i).draws = s.draws := rfl
@[simp] theorem State.setInputs_ctx (s : State) (i : Inputs) (q : Nat) : (s.setInputs i).ctx q = s.ctx q := rfl
@[simp] theorem State.setInputs_self (s : State) (i : Inputs) : (s.setInputs i).self = s.self := rfl
@[simp] theorem State.setInputs_valid (s : State) (i : Inputs) (j : Nat) : (s.setInputs i).valid j = s.valid j := rfl
@[simp] theorem State.setInputs_skip (s : State) (i : Inputs) (j : Nat) : (s.setInputs i).skip j = s.skip j := rfl
@[simp] theorem State.setInputs_saved (s : State) (i : Inputs) (j : Nat) : (s.setInputs i).saved j = s.saved j := rfl
@[simp] theorem State.setInputs_gpioStored (s : State) (i : Inputs) (j : Nat) : (s.setInputs i).gpioStored j = s.gpioStored j := rfl
@[simp] theorem State.setInputs_locate (s : State) (i : Inputs) (q : Nat) : (s.setInputs i).locate q = s.locate q := rfl

@[simp] theorem State.storeGpio_gpioBase (s : State) (i : Nat) (v : Byte) : (s.storeGpio i v).gpioBase = s.gpioBase := rfl
@[simp] theorem State.storeGpio_iomuxBase (s : State) (i : Nat) (v : Byte) : (s.storeGpio i v).iomuxBase = s.iomuxBase := rfl
@[simp] theorem State.storeGpio_constructed (s : State) (i : Nat) (v : Byte) : (s.storeGpio i v).constructed = s.constructed := rfl
@[simp] theorem State.storeGpio_override (s : State) (i : Nat) (v : Byte) : (s.storeGpio i v).override = s.override := rfl
@[simp] theorem State.storeGpio_lock (s : State) (i : Nat) (v : Byte) : (s.storeGpio i v).lock = s.lock := rfl
@[simp] theorem State.storeGpio_gpioRsv (s : State) (i : Nat) (v : Byte) : (s.storeGpio i v).gpioRsv = s.gpioRsv := rfl
@[simp] theorem State.storeGpio_iomuxRsv (s : State) (i : Nat) (v : Byte) : (s.storeGpio i v).iomuxRsv = s.iomuxRsv := rfl
@[simp] theorem State.storeGpio_locRaw (s : State) (i : Nat) (v : Byte) : (s.storeGpio i v).locRaw = s.locRaw := rfl
@[simp] theorem State.storeGpio_origValid (s : State) (i : Nat) (v : Byte) : (s.storeGpio i v).origValid = s.origValid := rfl
@[simp] theorem State.storeGpio_origVal (s : State) (i : Nat) (v : Byte) : (s.storeGpio i v).origVal = s.origVal := rfl
@[simp] theorem State.storeGpio_gpio (s : State) (i : Nat) (v : Byte) : (s.storeGpio i v).gpio = s.gpio.write i (v &&& ~~~maskIn s.params.layout) := rfl
@[simp] theorem State.storeGpio_iomux (s : State) (i : Nat) (v : Byte) : (s.storeGpio i v).iomux = s.iomux := rfl
@[simp] theorem State.storeGpio_pmidx (s : State) (i : Nat) (v : Byte) : (s.storeGpio i v).pmidx = s.pmidx := rfl
@[simp] theorem State.storeGpio_pmreg (s : State) (i : Nat) (v : Byte) : (s.storeGpio i v).pmreg = s.pmreg := rfl
@[simp] theorem State.storeGpio_ctxs (s : State) (i : Nat) (v : Byte) : (s.storeGpio i v).ctxs = s.ctxs := rfl
@[simp] theorem State.storeGpio_inputs (s : State) (i : Nat) (v : Byte) : (s.storeGpio i v).inputs = s.inputs := rfl
@[simp] theorem State.storeGpio_params (s : State) (i : Nat) (v : Byte) : (s.storeGpio i v).params = s.params := rfl
@[simp] theorem State.storeGpio_cur (s : State) (i : Nat) (v : Byte) : (s.storeGpio i v).cur = s.cur := rfl
@[simp] theorem State.storeGpio_agenda (s : State) (i : Nat) (v : Byte) : (s.storeGpio i v).agenda = s.agenda := rfl
@[simp] theorem State.storeGpio_callers (s : State) (i : Nat) (v : Byte) : (s.storeGpio i v).callers = s.callers := rfl
@[simp] theorem State.storeGpio_draws (s : State) (i : Nat) (v : Byte) : (s.storeGpio i v).draws = s.draws := rfl
@[simp] theorem State.storeGpio_ctx (s : State) (i : Nat) (v : Byte) (q : Nat) : (s.storeGpio i v).ctx q = s.ctx q := rfl
@[simp] theorem State.storeGpio_self (s : State) (i : Nat) (v : Byte) : (s.storeGpio i v).self = s.self := rfl
@[simp] theorem State.storeGpio_valid (s : State) (i : Nat) (v : Byte) (j : Nat) : (s.storeGpio i v).valid j = s.valid j := rfl
@[simp] theorem State.storeGpio_skip (s : State) (i : Nat) (v : Byte) (j : Nat) : (s.storeGpio i v).skip j = s.skip j := rfl
@[simp] theorem State.storeGpio_saved (s : State) (i : Nat) (v : Byte) (j : Nat) : (s.storeGpio i v).saved j = s.saved j := rfl
@[simp] theorem State.storeGpio_locate (s : State) (i : Nat) (v : Byte) (q : Nat) : (s.storeGpio i v).locate q = s.locate q := rfl
@[simp] theorem State.storeGpio_arbiterGrants (s : State) (i : Nat) (v : Byte) (q r : Nat) : (s.storeGpio i v).arbiterGrants q r = s.arbiterGrants q r := rfl

@[simp] theorem State.storeIomux_gpioBase (s : State) (i : Nat) (v : Byte) : (s.storeIomux i v).gpioBase = s.gpioBase := rfl
@[simp] theorem State.storeIomux_iomuxBase (s : State) (i : Nat) (v : Byte) : (s.storeIomux i v).iomuxBase = s.iomuxBase := rfl
@[simp] theorem State.storeIomux_constructed (s : State) (i : Nat) (v : Byte) : (s.storeIomux i v).constructed = s.constructed := rfl
@[simp] theorem State.storeIomux_override (s : State) (i : Nat) (v : Byte) : (s.storeIomux i v).override = s.override := rfl
@[simp] theorem State.storeIomux_lock (s : State) (i : Nat) (v : Byte) : (s.storeIomux i v).lock = s.lock := rfl
@[simp] theorem State.storeIomux_gpioRsv (s : State) (i : Nat) (v : Byte) : (s.storeIomux i v).gpioRsv = s.gpioRsv := rfl
@[simp] theorem State.storeIomux_iomuxRsv (s : State) (i : Nat) (v : Byte) : (s.storeIomux i v).iomuxRsv = s.iomuxRsv := rfl
@[simp] theorem State.storeIomux_locRaw (s : State) (i : Nat) (v : Byte) : (s.storeIomux i v).locRaw = s.locRaw := rfl
@[simp] theorem State.storeIomux_origValid (s : State) (i : Nat) (v : Byte) : (s.storeIomux i v).origValid = s.origValid := rfl
@[simp] theorem State.storeIomux_origVal (s : State) (i : Nat) (v : Byte) : (s.storeIomux i v).origVal = s.origVal := rfl
@[simp] theorem State.storeIomux_gpio (s : State) (i : Nat) (v : Byte) : (s.storeIomux i v).gpio = s.gpio := rfl
@[simp] theorem State.storeIomux_iomux (s : State) (i : Nat) (v : Byte) : (s.storeIomux i v).iomux = s.iomux.write i v := rfl
@[simp] theorem State.storeIomux_pmidx (s : State) (i : Nat) (v : Byte) : (s.storeIomux i v).pmidx = s.pmidx := rfl
@[simp] theorem State.storeIomux_pmreg (s : State) (i : Nat) (v : Byte) : (s.storeIomux i v).pmreg = s.pmreg := rfl
@[simp] theorem State.storeIomux_ctxs (s : State) (i : Nat) (v : Byte) : (s.storeIomux i v).ctxs = s.ctxs := rfl
@[simp] theorem State.storeIomux_inputs (s : State) (i : Nat) (v : Byte) : (s.storeIomux i v).inputs = s.inputs := rfl
@[simp] theorem State.storeIomux_params (s : State) (i : Nat) (v : Byte) : (s.storeIomux i v).params = s.params := rfl
@[simp] theorem State.storeIomux_cur (s : State) (i : Nat) (v : Byte) : (s.storeIomux i v).cur = s.cur := rfl
@[simp] theorem State.storeIomux_agenda (s : State) (i : Nat) (v : Byte) : (s.storeIomux i v).agenda = s.agenda := rfl
@[simp] theorem State.storeIomux_callers (s : State) (i : Nat) (v : Byte) : (s.storeIomux i v).callers = s.callers := rfl
@[simp] theorem State.storeIomux_draws (s : State) (i : Nat) (v : Byte) : (s.storeIomux i v).draws = s.draws := rfl
@[simp] theorem State.storeIomux_ctx (s : State) (i : Nat) (v : Byte) (q : Nat) : (s.storeIomux i v).ctx q = s.ctx q := rfl
@[simp] theorem State.storeIomux_self (s : State) (i : Nat) (v : Byte) : (s.storeIomux i v).self = s.self := rfl
@[simp] theorem State.storeIomux_valid (s : State) (i : Nat) (v : Byte) (j : Nat) : (s.storeIomux i v).valid j = s.valid j := rfl
@[simp] theorem State.storeIomux_skip (s : State) (i : Nat) (v : Byte) (j : Nat) : (s.storeIomux i v).skip j = s.skip j := rfl
@[simp] theorem State.storeIomux_saved (s : State) (i : Nat) (v : Byte) (j : Nat) : (s.storeIomux i v).saved j = s.saved j := rfl
@[simp] theorem State.storeIomux_gpioStored (s : State) (i : Nat) (v : Byte) (j : Nat) : (s.storeIomux i v).gpioStored j = s.gpioStored j := rfl
@[simp] theorem State.storeIomux_locate (s : State) (i : Nat) (v : Byte) (q : Nat) : (s.storeIomux i v).locate q = s.locate q := rfl
@[simp] theorem State.storeIomux_gpioSampled (s : State) (i : Nat) (v : Byte) (j : Nat) : (s.storeIomux i v).gpioSampled j = s.gpioSampled j := rfl
@[simp] theorem State.storeIomux_arbiterGrants (s : State) (i : Nat) (v : Byte) (q r : Nat) : (s.storeIomux i v).arbiterGrants q r = s.arbiterGrants q r := rfl

@[simp] theorem State.storePmreg_gpioBase (s : State) (k : Nat) (v : Byte) : (s.storePmreg k v).gpioBase = s.gpioBase := rfl
@[simp] theorem State.storePmreg_iomuxBase (s : State) (k : Nat) (v : Byte) : (s.storePmreg k v).iomuxBase = s.iomuxBase := rfl
@[simp] theorem State.storePmreg_constructed (s : State) (k : Nat) (v : Byte) : (s.storePmreg k v).constructed = s.constructed := rfl
@[simp] theorem State.storePmreg_override (s : State) (k : Nat) (v : Byte) : (s.storePmreg k v).override = s.override := rfl
@[simp] theorem State.storePmreg_lock (s : State) (k : Nat) (v : Byte) : (s.storePmreg k v).lock = s.lock := rfl
@[simp] theorem State.storePmreg_gpioRsv (s : State) (k : Nat) (v : Byte) : (s.storePmreg k v).gpioRsv = s.gpioRsv := rfl
@[simp] theorem State.storePmreg_iomuxRsv (s : State) (k : Nat) (v : Byte) : (s.storePmreg k v).iomuxRsv = s.iomuxRsv := rfl
@[simp] theorem State.storePmreg_locRaw (s : State) (k : Nat) (v : Byte) : (s.storePmreg k v).locRaw = s.locRaw := rfl
@[simp] theorem State.storePmreg_origValid (s : State) (k : Nat) (v : Byte) : (s.storePmreg k v).origValid = s.origValid := rfl
@[simp] theorem State.storePmreg_origVal (s : State) (k : Nat) (v : Byte) : (s.storePmreg k v).origVal = s.origVal := rfl
@[simp] theorem State.storePmreg_gpio (s : State) (k : Nat) (v : Byte) : (s.storePmreg k v).gpio = s.gpio := rfl
@[simp] theorem State.storePmreg_iomux (s : State) (k : Nat) (v : Byte) : (s.storePmreg k v).iomux = s.iomux := rfl
@[simp] theorem State.storePmreg_pmidx (s : State) (k : Nat) (v : Byte) : (s.storePmreg k v).pmidx = s.pmidx := rfl
@[simp] theorem State.storePmreg_pmreg (s : State) (k : Nat) (v : Byte) : (s.storePmreg k v).pmreg = s.pmreg.write k v := rfl
@[simp] theorem State.storePmreg_ctxs (s : State) (k : Nat) (v : Byte) : (s.storePmreg k v).ctxs = s.ctxs := rfl
@[simp] theorem State.storePmreg_inputs (s : State) (k : Nat) (v : Byte) : (s.storePmreg k v).inputs = s.inputs := rfl
@[simp] theorem State.storePmreg_params (s : State) (k : Nat) (v : Byte) : (s.storePmreg k v).params = s.params := rfl
@[simp] theorem State.storePmreg_cur (s : State) (k : Nat) (v : Byte) : (s.storePmreg k v).cur = s.cur := rfl
@[simp] theorem State.storePmreg_agenda (s : State) (k : Nat) (v : Byte) : (s.storePmreg k v).agenda = s.agenda := rfl
@[simp] theorem State.storePmreg_callers (s : State) (k : Nat) (v : Byte) : (s.storePmreg k v).callers = s.callers := rfl
@[simp] theorem State.storePmreg_draws (s : State) (k : Nat) (v : Byte) : (s.storePmreg k v).draws = s.draws := rfl
@[simp] theorem State.storePmreg_ctx (s : State) (k : Nat) (v : Byte) (q : Nat) : (s.storePmreg k v).ctx q = s.ctx q := rfl
@[simp] theorem State.storePmreg_self (s : State) (k : Nat) (v : Byte) : (s.storePmreg k v).self = s.self := rfl
@[simp] theorem State.storePmreg_valid (s : State) (k : Nat) (v : Byte) (j : Nat) : (s.storePmreg k v).valid j = s.valid j := rfl
@[simp] theorem State.storePmreg_skip (s : State) (k : Nat) (v : Byte) (j : Nat) : (s.storePmreg k v).skip j = s.skip j := rfl
@[simp] theorem State.storePmreg_saved (s : State) (k : Nat) (v : Byte) (j : Nat) : (s.storePmreg k v).saved j = s.saved j := rfl
@[simp] theorem State.storePmreg_gpioStored (s : State) (k : Nat) (v : Byte) (j : Nat) : (s.storePmreg k v).gpioStored j = s.gpioStored j := rfl
@[simp] theorem State.storePmreg_locate (s : State) (k : Nat) (v : Byte) (q : Nat) : (s.storePmreg k v).locate q = s.locate q := rfl
@[simp] theorem State.storePmreg_gpioSampled (s : State) (k : Nat) (v : Byte) (j : Nat) : (s.storePmreg k v).gpioSampled j = s.gpioSampled j := rfl
@[simp] theorem State.storePmreg_arbiterGrants (s : State) (k : Nat) (v : Byte) (q r : Nat) : (s.storePmreg k v).arbiterGrants q r = s.arbiterGrants q r := rfl

@[simp] theorem State.saveOriginal_gpioBase (s : State) (i : Nat) (b : Byte) : (s.saveOriginal i b).gpioBase = s.gpioBase := rfl
@[simp] theorem State.saveOriginal_iomuxBase (s : State) (i : Nat) (b : Byte) : (s.saveOriginal i b).iomuxBase = s.iomuxBase := rfl
@[simp] theorem State.saveOriginal_constructed (s : State) (i : Nat) (b : Byte) : (s.saveOriginal i b).constructed = s.constructed := rfl
@[simp] theorem State.saveOriginal_override (s : State) (i : Nat) (b : Byte) : (s.saveOriginal i b).override = s.override := rfl
@[simp] theorem State.saveOriginal_lock (s : State) (i : Nat) (b : Byte) : (s.saveOriginal i b).lock = s.lock := rfl
@[simp] theorem State.saveOriginal_gpioRsv (s : State) (i : Nat) (b : Byte) : (s.saveOriginal i b).gpioRsv = s.gpioRsv := rfl
@[simp] theorem State.saveOriginal_iomuxRsv (s : State) (i : Nat) (b : Byte) : (s.saveOriginal i b).iomuxRsv = s.iomuxRsv := rfl
@[simp] theorem State.saveOriginal_locRaw (s : State) (i : Nat) (b : Byte) : (s.saveOriginal i b).locRaw = s.locRaw := rfl
@[simp] theorem State.saveOriginal_origValid (s : State) (i : Nat) (b : Byte) : (s.saveOriginal i b).origValid = s.origValid.setIfInBounds i true := rfl
@[simp] theorem State.saveOriginal_origVal (s : State) (i : Nat) (b : Byte) : (s.saveOriginal i b).origVal = s.origVal.setIfInBounds i b := rfl
@[simp] theorem State.saveOriginal_gpio (s : State) (i : Nat) (b : Byte) : (s.saveOriginal i b).gpio = s.gpio := rfl
@[simp] theorem State.saveOriginal_iomux (s : State) (i : Nat) (b : Byte) : (s.saveOriginal i b).iomux = s.iomux := rfl
@[simp] theorem State.saveOriginal_pmidx (s : State) (i : Nat) (b : Byte) : (s.saveOriginal i b).pmidx = s.pmidx := rfl
@[simp] theorem State.saveOriginal_pmreg (s : State) (i : Nat) (b : Byte) : (s.saveOriginal i b).pmreg = s.pmreg := rfl
@[simp] theorem State.saveOriginal_ctxs (s : State) (i : Nat) (b : Byte) : (s.saveOriginal i b).ctxs = s.ctxs := rfl
@[simp] theorem State.saveOriginal_inputs (s : State) (i : Nat) (b : Byte) : (s.saveOriginal i b).inputs = s.inputs := rfl
@[simp] theorem State.saveOriginal_params (s : State) (i : Nat) (b : Byte) : (s.saveOriginal i b).params = s.params := rfl
@[simp] theorem State.saveOriginal_cur (s : State) (i : Nat) (b : Byte) : (s.saveOriginal i b).cur = s.cur := rfl
@[simp] theorem State.saveOriginal_agenda (s : State) (i : Nat) (b : Byte) : (s.saveOriginal i b).agenda = s.agenda := rfl
@[simp] theorem State.saveOriginal_callers (s : State) (i : Nat) (b : Byte) : (s.saveOriginal i b).callers = s.callers := rfl
@[simp] theorem State.saveOriginal_draws (s : State) (i : Nat) (b : Byte) : (s.saveOriginal i b).draws = s.draws := rfl
@[simp] theorem State.saveOriginal_ctx (s : State) (i : Nat) (b : Byte) (q : Nat) : (s.saveOriginal i b).ctx q = s.ctx q := rfl
@[simp] theorem State.saveOriginal_self (s : State) (i : Nat) (b : Byte) : (s.saveOriginal i b).self = s.self := rfl
@[simp] theorem State.saveOriginal_gpioStored (s : State) (i : Nat) (b : Byte) (j : Nat) : (s.saveOriginal i b).gpioStored j = s.gpioStored j := rfl
@[simp] theorem State.saveOriginal_locate (s : State) (i : Nat) (b : Byte) (q : Nat) : (s.saveOriginal i b).locate q = s.locate q := rfl
@[simp] theorem State.saveOriginal_gpioSampled (s : State) (i : Nat) (b : Byte) (j : Nat) : (s.saveOriginal i b).gpioSampled j = s.gpioSampled j := rfl
@[simp] theorem State.saveOriginal_arbiterGrants (s : State) (i : Nat) (b : Byte) (q r : Nat) : (s.saveOriginal i b).arbiterGrants q r = s.arbiterGrants q r := rfl

@[simp] theorem State.dropOriginal_gpioBase (s : State) (i : Nat) : (s.dropOriginal i).gpioBase = s.gpioBase := rfl
@[simp] theorem State.dropOriginal_iomuxBase (s : State) (i : Nat) : (s.dropOriginal i).iomuxBase = s.iomuxBase := rfl
@[simp] theorem State.dropOriginal_constructed (s : State) (i : Nat) : (s.dropOriginal i).constructed = s.constructed := rfl
@[simp] theorem State.dropOriginal_override (s : State) (i : Nat) : (s.dropOriginal i).override = s.override := rfl
@[simp] theorem State.dropOriginal_lock (s : State) (i : Nat) : (s.dropOriginal i).lock = s.lock := rfl
@[simp] theorem State.dropOriginal_gpioRsv (s : State) (i : Nat) : (s.dropOriginal i).gpioRsv = s.gpioRsv := rfl
@[simp] theorem State.dropOriginal_iomuxRsv (s : State) (i : Nat) : (s.dropOriginal i).iomuxRsv = s.iomuxRsv := rfl
@[simp] theorem State.dropOriginal_locRaw (s : State) (i : Nat) : (s.dropOriginal i).locRaw = s.locRaw := rfl
@[simp] theorem State.dropOriginal_origValid (s : State) (i : Nat) : (s.dropOriginal i).origValid = s.origValid.setIfInBounds i false := rfl
@[simp] theorem State.dropOriginal_origVal (s : State) (i : Nat) : (s.dropOriginal i).origVal = s.origVal := rfl
@[simp] theorem State.dropOriginal_gpio (s : State) (i : Nat) : (s.dropOriginal i).gpio = s.gpio := rfl
@[simp] theorem State.dropOriginal_iomux (s : State) (i : Nat) : (s.dropOriginal i).iomux = s.iomux := rfl
@[simp] theorem State.dropOriginal_pmidx (s : State) (i : Nat) : (s.dropOriginal i).pmidx = s.pmidx := rfl
@[simp] theorem State.dropOriginal_pmreg (s : State) (i : Nat) : (s.dropOriginal i).pmreg = s.pmreg := rfl
@[simp] theorem State.dropOriginal_ctxs (s : State) (i : Nat) : (s.dropOriginal i).ctxs = s.ctxs := rfl
@[simp] theorem State.dropOriginal_inputs (s : State) (i : Nat) : (s.dropOriginal i).inputs = s.inputs := rfl
@[simp] theorem State.dropOriginal_params (s : State) (i : Nat) : (s.dropOriginal i).params = s.params := rfl
@[simp] theorem State.dropOriginal_cur (s : State) (i : Nat) : (s.dropOriginal i).cur = s.cur := rfl
@[simp] theorem State.dropOriginal_agenda (s : State) (i : Nat) : (s.dropOriginal i).agenda = s.agenda := rfl
@[simp] theorem State.dropOriginal_callers (s : State) (i : Nat) : (s.dropOriginal i).callers = s.callers := rfl
@[simp] theorem State.dropOriginal_draws (s : State) (i : Nat) : (s.dropOriginal i).draws = s.draws := rfl
@[simp] theorem State.dropOriginal_ctx (s : State) (i : Nat) (q : Nat) : (s.dropOriginal i).ctx q = s.ctx q := rfl
@[simp] theorem State.dropOriginal_self (s : State) (i : Nat) : (s.dropOriginal i).self = s.self := rfl
@[simp] theorem State.dropOriginal_saved (s : State) (i : Nat) (j : Nat) : (s.dropOriginal i).saved j = s.saved j := rfl
@[simp] theorem State.dropOriginal_gpioStored (s : State) (i : Nat) (j : Nat) : (s.dropOriginal i).gpioStored j = s.gpioStored j := rfl
@[simp] theorem State.dropOriginal_locate (s : State) (i : Nat) (q : Nat) : (s.dropOriginal i).locate q = s.locate q := rfl
@[simp] theorem State.dropOriginal_gpioSampled (s : State) (i : Nat) (j : Nat) : (s.dropOriginal i).gpioSampled j = s.gpioSampled j := rfl
@[simp] theorem State.dropOriginal_arbiterGrants (s : State) (i : Nat) (q r : Nat) : (s.dropOriginal i).arbiterGrants q r = s.arbiterGrants q r := rfl

@[simp] theorem State.releaseGpioRegion_gpioBase (s : State) : (s.releaseGpioRegion).gpioBase = s.gpioBase := rfl
@[simp] theorem State.releaseGpioRegion_iomuxBase (s : State) : (s.releaseGpioRegion).iomuxBase = s.iomuxBase := rfl
@[simp] theorem State.releaseGpioRegion_constructed (s : State) : (s.releaseGpioRegion).constructed = s.constructed := rfl
@[simp] theorem State.releaseGpioRegion_override (s : State) : (s.releaseGpioRegion).override = s.override := rfl
@[simp] theorem State.releaseGpioRegion_lock (s : State) : (s.releaseGpioRegion).lock = s.lock := rfl
@[simp] theorem State.releaseGpioRegion_gpioRsv (s : State) : (s.releaseGpioRegion).gpioRsv = false := rfl
@[simp] theorem State.releaseGpioRegion_iomuxRsv (s : State) : (s.releaseGpioRegion).iomuxRsv = s.iomuxRsv := rfl
@[simp] theorem State.releaseGpioRegion_locRaw (s : State) : (s.releaseGpioRegion).locRaw = s.locRaw := rfl
@[simp] theorem State.releaseGpioRegion_origValid (s : State) : (s.releaseGpioRegion).origValid = s.origValid := rfl
@[simp] theorem State.releaseGpioRegion_origVal (s : State) : (s.releaseGpioRegion).origVal = s.origVal := rfl
@[simp] theorem State.releaseGpioRegion_gpio (s : State) : (s.releaseGpioRegion).gpio = s.gpio := rfl
@[simp] theorem State.releaseGpioRegion_iomux (s : State) : (s.releaseGpioRegion).iomux = s.iomux := rfl
@[simp] theorem State.releaseGpioRegion_pmidx (s : State) : (s.releaseGpioRegion).pmidx = s.pmidx := rfl
@[simp] theorem State.releaseGpioRegion_pmreg (s : State) : (s.releaseGpioRegion).pmreg = s.pmreg := rfl
@[simp] theorem State.releaseGpioRegion_ctxs (s : State) : (s.releaseGpioRegion).ctxs = s.ctxs := rfl
@[simp] theorem State.releaseGpioRegion_inputs (s : State) : (s.releaseGpioRegion).inputs = s.inputs := rfl
@[simp] theorem State.releaseGpioRegion_params (s : State) : (s.releaseGpioRegion).params = s.params := rfl
@[simp] theorem State.releaseGpioRegion_cur (s : State) : (s.releaseGpioRegion).cur = s.cur := rfl
@[simp] theorem State.releaseGpioRegion_agenda (s : State) : (s.releaseGpioRegion).agenda = s.agenda := rfl
@[simp] theorem State.releaseGpioRegion_callers (s : State) : (s.releaseGpioRegion).callers = s.callers := rfl
@[simp] theorem State.releaseGpioRegion_draws (s : State) : (s.releaseGpioRegion).draws = s.draws := rfl
@[simp] theorem State.releaseGpioRegion_ctx (s : State) (q : Nat) : (s.releaseGpioRegion).ctx q = s.ctx q := rfl
@[simp] theorem State.releaseGpioRegion_self (s : State) : (s.releaseGpioRegion).self = s.self := rfl
@[simp] theorem State.releaseGpioRegion_valid (s : State) (j : Nat) : (s.releaseGpioRegion).valid j = s.valid j := rfl
@[simp] theorem State.releaseGpioRegion_skip (s : State) (j : Nat) : (s.releaseGpioRegion).skip j = s.skip j := rfl
@[simp] theorem State.releaseGpioRegion_saved (s : State) (j : Nat) : (s.releaseGpioRegion).saved j = s.saved j := rfl
@[simp] theorem State.releaseGpioRegion_gpioStored (s : State) (j : Nat) : (s.releaseGpioRegion).gpioStored j = s.gpioStored j := rfl
@[simp] theorem State.releaseGpioRegion_locate (s : State) (q : Nat) : (s.releaseGpioRegion).locate q = s.locate q := rfl
@[simp] theorem State.releaseGpioRegion_gpioSampled (s : State) (j : Nat) : (s.releaseGpioRegion).gpioSampled j = s.gpioSampled j := rfl
@[simp] theorem State.releaseGpioRegion_arbiterGrants (s : State) (q r : Nat) : (s.releaseGpioRegion).arbiterGrants q r = s.arbiterGrants q r := rfl

@[simp] theorem State.releaseIomuxRegion_gpioBase (s : State) : (s.releaseIomuxRegion).gpioBase = s.gpioBase := rfl
@[simp] theorem State.releaseIomuxRegion_iomuxBase (s : State) : (s.releaseIomuxRegion).iomuxBase = s.iomuxBase := rfl
@[simp] theorem State.releaseIomuxRegion_constructed (s : State) : (s.releaseIomuxRegion).constructed = s.constructed := rfl
@[simp] theorem State.releaseIomuxRegion_override (s : State) : (s.releaseIomuxRegion).override = s.override := rfl
@[simp] theorem State.releaseIomuxRegion_lock (s : State) : (s.releaseIomuxRegion).lock = s.lock := rfl
@[simp] theorem State.releaseIomuxRegion_gpioRsv (s : State) : (s.releaseIomuxRegion).gpioRsv = s.gpioRsv := rfl
@[simp] theorem State.releaseIomuxRegion_iomuxRsv (s : State) : (s.releaseIomuxRegion).iomuxRsv = false := rfl
@[simp] theorem State.releaseIomuxRegion_locRaw (s : State) : (s.releaseIomuxRegion).locRaw = s.locRaw := rfl
@[simp] theorem State.releaseIomuxRegion_origValid (s : State) : (s.releaseIomuxRegion).origValid = s.origValid := rfl
@[simp] theorem State.releaseIomuxRegion_origVal (s : State) : (s.releaseIomuxRegion).origVal = s.origVal := rfl
@[simp] theorem State.releaseIomuxRegion_gpio (s : State) : (s.releaseIomuxRegion).gpio = s.gpio := rfl
@[simp] theorem State.releaseIomuxRegion_iomux (s : State) : (s.releaseIomuxRegion).iomux = s.iomux := rfl
@[simp] theorem State.releaseIomuxRegion_pmidx (s : State) : (s.releaseIomuxRegion).pmidx = s.pmidx := rfl
@[simp] theorem State.releaseIomuxRegion_pmreg (s : State) : (s.releaseIomuxRegion).pmreg = s.pmreg := rfl
@[simp] theorem State.releaseIomuxRegion_ctxs (s : State) : (s.releaseIomuxRegion).ctxs = s.ctxs := rfl
@[simp] theorem State.releaseIomuxRegion_inputs (s : State) : (s.releaseIomuxRegion).inputs = s.inputs := rfl
@[simp] theorem State.releaseIomuxRegion_params (s : State) : (s.releaseIomuxRegion).params = s.params := rfl
@[simp] theorem State.releaseIomuxRegion_cur (s : State) : (s.releaseIomuxRegion).cur = s.cur := rfl
@[simp] theorem State.releaseIomuxRegion_agenda (s : State) : (s.releaseIomuxRegion).agenda = s.agenda := rfl
@[simp] theorem State.releaseIomuxRegion_callers (s : State) : (s.releaseIomuxRegion).callers = s.callers := rfl
@[simp] theorem State.releaseIomuxRegion_draws (s : State) : (s.releaseIomuxRegion).draws = s.draws := rfl
@[simp] theorem State.releaseIomuxRegion_ctx (s : State) (q : Nat) : (s.releaseIomuxRegion).ctx q = s.ctx q := rfl
@[simp] theorem State.releaseIomuxRegion_self (s : State) : (s.releaseIomuxRegion).self = s.self := rfl
@[simp] theorem State.releaseIomuxRegion_valid (s : State) (j : Nat) : (s.releaseIomuxRegion).valid j = s.valid j := rfl
@[simp] theorem State.releaseIomuxRegion_skip (s : State) (j : Nat) : (s.releaseIomuxRegion).skip j = s.skip j := rfl
@[simp] theorem State.releaseIomuxRegion_saved (s : State) (j : Nat) : (s.releaseIomuxRegion).saved j = s.saved j := rfl
@[simp] theorem State.releaseIomuxRegion_gpioStored (s : State) (j : Nat) : (s.releaseIomuxRegion).gpioStored j = s.gpioStored j := rfl
@[simp] theorem State.releaseIomuxRegion_locate (s : State) (q : Nat) : (s.releaseIomuxRegion).locate q = s.locate q := rfl
@[simp] theorem State.releaseIomuxRegion_gpioSampled (s : State) (j : Nat) : (s.releaseIomuxRegion).gpioSampled j = s.gpioSampled j := rfl
@[simp] theorem State.releaseIomuxRegion_arbiterGrants (s : State) (q r : Nat) : (s.releaseIomuxRegion).arbiterGrants q r = s.arbiterGrants q r := rfl

@[simp] theorem State.upd_gpioBase (s : State) (f : Context → Context) : (s.upd f).gpioBase = s.gpioBase := rfl
@[simp] theorem State.upd_iomuxBase (s : State) (f : Context → Context) : (s.upd f).iomuxBase = s.iomuxBase := rfl
@[simp] theorem State.upd_constructed (s : State) (f : Context → Context) : (s.upd f).constructed = s.constructed := rfl
@[simp] theorem State.upd_override (s : State) (f : Context → Context) : (s.upd f).override = s.override := rfl
@[simp] theorem State.upd_lock (s : State) (f : Context → Context) : (s.upd f).lock = s.lock := rfl
@[simp] theorem State.upd_gpioRsv (s : State) (f : Context → Context) : (s.upd f).gpioRsv = s.gpioRsv := rfl
@[simp] theorem State.upd_iomuxRsv (s : State) (f : Context → Context) : (s.upd f).iomuxRsv = s.iomuxRsv := rfl
@[simp] theorem State.upd_locRaw (s : State) (f : Context → Context) : (s.upd f).locRaw = s.locRaw := rfl
@[simp] theorem State.upd_origValid (s : State) (f : Context → Context) : (s.upd f).origValid = s.origValid := rfl
@[simp] theorem State.upd_origVal (s : State) (f : Context → Context) : (s.upd f).origVal = s.origVal := rfl
@[simp] theorem State.upd_gpio (s : State) (f : Context → Context) : (s.upd f).gpio = s.gpio := rfl
@[simp] theorem State.upd_iomux (s : State) (f : Context → Context) : (s.upd f).iomux = s.iomux := rfl
@[simp] theorem State.upd_pmidx (s : State) (f : Context → Context) : (s.upd f).pmidx = s.pmidx := rfl
@[simp] theorem State.upd_pmreg (s : State) (f : Context → Context) : (s.upd f).pmreg = s.pmreg := rfl
@[simp] theorem State.upd_ctxs (s : State) (f : Context → Context) : (s.upd f).ctxs = s.ctxs.set s.cur (f s.self) := rfl
@[simp] theorem State.upd_inputs (s : State) (f : Context → Context) : (s.upd f).inputs = s.inputs := rfl
@[simp] theorem State.upd_params (s : State) (f : Context → Context) : (s.upd f).params = s.params := rfl
@[simp] theorem State.upd_cur (s : State) (f : Context → Context) : (s.upd f).cur = s.cur := rfl
@[simp] theorem State.upd_agenda (s : State) (f : Context → Context) : (s.upd f).agenda = s.agenda := rfl
@[simp] theorem State.upd_callers (s : State) (f : Context → Context) : (s.upd f).callers = s.callers := rfl
@[simp] theorem State.upd_draws (s : State) (f : Context → Context) : (s.upd f).draws = s.draws := rfl
@[simp] theorem State.upd_valid (s : State) (f : Context → Context) (j : Nat) : (s.upd f).valid j = s.valid j := rfl
@[simp] theorem State.upd_skip (s : State) (f : Context → Context) (j : Nat) : (s.upd f).skip j = s.skip j := rfl
@[simp] theorem State.upd_saved (s : State) (f : Context → Context) (j : Nat) : (s.upd f).saved j = s.saved j := rfl
@[simp] theorem State.upd_gpioStored (s : State) (f : Context → Context) (j : Nat) : (s.upd f).gpioStored j = s.gpioStored j := rfl
@[simp] theorem State.upd_locate (s : State) (f : Context → Context) (q : Nat) : (s.upd f).locate q = s.locate q := rfl
@[simp] theorem State.upd_gpioSampled (s : State) (f : Context → Context) (j : Nat) : (s.upd f).gpioSampled j = s.gpioSampled j := rfl
@[simp] theorem State.upd_arbiterGrants (s : State) (f : Context → Context) (q r : Nat) : (s.upd f).arbiterGrants q r = s.arbiterGrants q r := rfl

@[simp] theorem State.goto_gpioBase (s : State) (p : BitVec 4) : (s.goto p).gpioBase = s.gpioBase := rfl
@[simp] theorem State.goto_iomuxBase (s : State) (p : BitVec 4) : (s.goto p).iomuxBase = s.iomuxBase := rfl
@[simp] theorem State.goto_constructed (s : State) (p : BitVec 4) : (s.goto p).constructed = s.constructed := rfl
@[simp] theorem State.goto_override (s : State) (p : BitVec 4) : (s.goto p).override = s.override := rfl
@[simp] theorem State.goto_lock (s : State) (p : BitVec 4) : (s.goto p).lock = s.lock := rfl
@[simp] theorem State.goto_gpioRsv (s : State) (p : BitVec 4) : (s.goto p).gpioRsv = s.gpioRsv := rfl
@[simp] theorem State.goto_iomuxRsv (s : State) (p : BitVec 4) : (s.goto p).iomuxRsv = s.iomuxRsv := rfl
@[simp] theorem State.goto_locRaw (s : State) (p : BitVec 4) : (s.goto p).locRaw = s.locRaw := rfl
@[simp] theorem State.goto_origValid (s : State) (p : BitVec 4) : (s.goto p).origValid = s.origValid := rfl
@[simp] theorem State.goto_origVal (s : State) (p : BitVec 4) : (s.goto p).origVal = s.origVal := rfl
@[simp] theorem State.goto_gpio (s : State) (p : BitVec 4) : (s.goto p).gpio = s.gpio := rfl
@[simp] theorem State.goto_iomux (s : State) (p : BitVec 4) : (s.goto p).iomux = s.iomux := rfl
@[simp] theorem State.goto_pmidx (s : State) (p : BitVec 4) : (s.goto p).pmidx = s.pmidx := rfl
@[simp] theorem State.goto_pmreg (s : State) (p : BitVec 4) : (s.goto p).pmreg = s.pmreg := rfl
@[simp] theorem State.goto_ctxs (s : State) (p : BitVec 4) : (s.goto p).ctxs = s.ctxs.set s.cur { s.self with phase := p } := rfl
@[simp] theorem State.goto_inputs (s : State) (p : BitVec 4) : (s.goto p).inputs = s.inputs := rfl
@[simp] theorem State.goto_params (s : State) (p : BitVec 4) : (s.goto p).params = s.params := rfl
@[simp] theorem State.goto_cur (s : State) (p : BitVec 4) : (s.goto p).cur = s.cur := rfl
@[simp] theorem State.goto_agenda (s : State) (p : BitVec 4) : (s.goto p).agenda = s.agenda := rfl
@[simp] theorem State.goto_callers (s : State) (p : BitVec 4) : (s.goto p).callers = s.callers := rfl
@[simp] theorem State.goto_draws (s : State) (p : BitVec 4) : (s.goto p).draws = s.draws := rfl
@[simp] theorem State.goto_valid (s : State) (p : BitVec 4) (j : Nat) : (s.goto p).valid j = s.valid j := rfl
@[simp] theorem State.goto_skip (s : State) (p : BitVec 4) (j : Nat) : (s.goto p).skip j = s.skip j := rfl
@[simp] theorem State.goto_saved (s : State) (p : BitVec 4) (j : Nat) : (s.goto p).saved j = s.saved j := rfl
@[simp] theorem State.goto_gpioStored (s : State) (p : BitVec 4) (j : Nat) : (s.goto p).gpioStored j = s.gpioStored j := rfl
@[simp] theorem State.goto_locate (s : State) (p : BitVec 4) (q : Nat) : (s.goto p).locate q = s.locate q := rfl
@[simp] theorem State.goto_gpioSampled (s : State) (p : BitVec 4) (j : Nat) : (s.goto p).gpioSampled j = s.gpioSampled j := rfl
@[simp] theorem State.goto_arbiterGrants (s : State) (p : BitVec 4) (q r : Nat) : (s.goto p).arbiterGrants q r = s.arbiterGrants q r := rfl

@[simp] theorem State.respond_gpioBase (s : State) (st : Status) (d : Data) : (s.respond st d).gpioBase = s.gpioBase := rfl
@[simp] theorem State.respond_iomuxBase (s : State) (st : Status) (d : Data) : (s.respond st d).iomuxBase = s.iomuxBase := rfl
@[simp] theorem State.respond_constructed (s : State) (st : Status) (d : Data) : (s.respond st d).constructed = s.constructed := rfl
@[simp] theorem State.respond_override (s : State) (st : Status) (d : Data) : (s.respond st d).override = s.override := rfl
@[simp] theorem State.respond_lock (s : State) (st : Status) (d : Data) : (s.respond st d).lock = s.lock := rfl
@[simp] theorem State.respond_gpioRsv (s : State) (st : Status) (d : Data) : (s.respond st d).gpioRsv = s.gpioRsv := rfl
@[simp] theorem State.respond_iomuxRsv (s : State) (st : Status) (d : Data) : (s.respond st d).iomuxRsv = s.iomuxRsv := rfl
@[simp] theorem State.respond_locRaw (s : State) (st : Status) (d : Data) : (s.respond st d).locRaw = s.locRaw := rfl
@[simp] theorem State.respond_origValid (s : State) (st : Status) (d : Data) : (s.respond st d).origValid = s.origValid := rfl
@[simp] theorem State.respond_origVal (s : State) (st : Status) (d : Data) : (s.respond st d).origVal = s.origVal := rfl
@[simp] theorem State.respond_gpio (s : State) (st : Status) (d : Data) : (s.respond st d).gpio = s.gpio := rfl
@[simp] theorem State.respond_iomux (s : State) (st : Status) (d : Data) : (s.respond st d).iomux = s.iomux := rfl
@[simp] theorem State.respond_pmidx (s : State) (st : Status) (d : Data) : (s.respond st d).pmidx = s.pmidx := rfl
@[simp] theorem State.respond_pmreg (s : State) (st : Status) (d : Data) : (s.respond st d).pmreg = s.pmreg := rfl
@[simp] theorem State.respond_ctxs (s : State) (st : Status) (d : Data) : (s.respond st d).ctxs = s.ctxs.set s.cur { s.self with rsp := ⟨statusCode st, d⟩, busy := false } := rfl
@[simp] theorem State.respond_inputs (s : State) (st : Status) (d : Data) : (s.respond st d).inputs = s.inputs := rfl
@[simp] theorem State.respond_params (s : State) (st : Status) (d : Data) : (s.respond st d).params = s.params := rfl
@[simp] theorem State.respond_cur (s : State) (st : Status) (d : Data) : (s.respond st d).cur = s.cur := rfl
@[simp] theorem State.respond_agenda (s : State) (st : Status) (d : Data) : (s.respond st d).agenda = s.agenda := rfl
@[simp] theorem State.respond_callers (s : State) (st : Status) (d : Data) : (s.respond st d).callers = s.callers := rfl
@[simp] theorem State.respond_draws (s : State) (st : Status) (d : Data) : (s.respond st d).draws = s.draws := rfl
@[simp] theorem State.respond_valid (s : State) (st : Status) (d : Data) (j : Nat) : (s.respond st d).valid j = s.valid j := rfl
@[simp] theorem State.respond_skip (s : State) (st : Status) (d : Data) (j : Nat) : (s.respond st d).skip j = s.skip j := rfl
@[simp] theorem State.respond_saved (s : State) (st : Status) (d : Data) (j : Nat) : (s.respond st d).saved j = s.saved j := rfl
@[simp] theorem State.respond_gpioStored (s : State) (st : Status) (d : Data) (j : Nat) : (s.respond st d).gpioStored j = s.gpioStored j := rfl
@[simp] theorem State.respond_locate (s : State) (st : Status) (d : Data) (q : Nat) : (s.respond st d).locate q = s.locate q := rfl
@[simp] theorem State.respond_gpioSampled (s : State) (st : Status) (d : Data) (j : Nat) : (s.respond st d).gpioSampled j = s.gpioSampled j := rfl
@[simp] theorem State.respond_arbiterGrants (s : State) (st : Status) (d : Data) (q r : Nat) : (s.respond st d).arbiterGrants q r = s.arbiterGrants q r := rfl

@[simp] theorem State.raise_gpioBase (s : State) (st : Status) (d : Data) : (s.raise st d).gpioBase = s.gpioBase := rfl
@[simp] theorem State.raise_iomuxBase (s : State) (st : Status) (d : Data) : (s.raise st d).iomuxBase = s.iomuxBase := rfl
@[simp] theorem State.raise_constructed (s : State) (st : Status) (d : Data) : (s.raise st d).constructed = s.constructed := rfl
@[simp] theorem State.raise_override (s : State) (st : Status) (d : Data) : (s.raise st d).override = s.override := rfl
@[simp] theorem State.raise_lock (s : State) (st : Status) (d : Data) : (s.raise st d).lock = if s.lock = some s.cur then none else s.lock := rfl
@[simp] theorem State.raise_gpioRsv (s : State) (st : Status) (d : Data) : (s.raise st d).gpioRsv = s.gpioRsv := rfl
@[simp] theorem State.raise_iomuxRsv (s : State) (st : Status) (d : Data) : (s.raise st d).iomuxRsv = s.iomuxRsv := rfl
@[simp] theorem State.raise_locRaw (s : State) (st : Status) (d : Data) : (s.raise st d).locRaw = s.locRaw := rfl
@[simp] theorem State.raise_origValid (s : State) (st : Status) (d : Data) : (s.raise st d).origValid = s.origValid := rfl
@[simp] theorem State.raise_origVal (s : State) (st : Status) (d : Data) : (s.raise st d).origVal = s.origVal := rfl
@[simp] theorem State.raise_gpio (s : State) (st : Status) (d : Data) : (s.raise st d).gpio = s.gpio := rfl
@[simp] theorem State.raise_iomux (s : State) (st : Status) (d : Data) : (s.raise st d).iomux = s.iomux := rfl
@[simp] theorem State.raise_pmidx (s : State) (st : Status) (d : Data) : (s.raise st d).pmidx = s.pmidx := rfl
@[simp] theorem State.raise_pmreg (s : State) (st : Status) (d : Data) : (s.raise st d).pmreg = s.pmreg := rfl
@[simp] theorem State.raise_ctxs (s : State) (st : Status) (d : Data) : (s.raise st d).ctxs = s.ctxs.set s.cur { s.self with rsp := ⟨statusCode st, d⟩, busy := false } := rfl
@[simp] theorem State.raise_inputs (s : State) (st : Status) (d : Data) : (s.raise st d).inputs = s.inputs := rfl
@[simp] theorem State.raise_params (s : State) (st : Status) (d : Data) : (s.raise st d).params = s.params := rfl
@[simp] theorem State.raise_cur (s : State) (st : Status) (d : Data) : (s.raise st d).cur = s.cur := rfl
@[simp] theorem State.raise_agenda (s : State) (st : Status) (d : Data) : (s.raise st d).agenda = s.agenda := rfl
@[simp] theorem State.raise_callers (s : State) (st : Status) (d : Data) : (s.raise st d).callers = s.callers := rfl
@[simp] theorem State.raise_draws (s : State) (st : Status) (d : Data) : (s.raise st d).draws = s.draws := rfl
@[simp] theorem State.raise_valid (s : State) (st : Status) (d : Data) (j : Nat) : (s.raise st d).valid j = s.valid j := rfl
@[simp] theorem State.raise_skip (s : State) (st : Status) (d : Data) (j : Nat) : (s.raise st d).skip j = s.skip j := rfl
@[simp] theorem State.raise_saved (s : State) (st : Status) (d : Data) (j : Nat) : (s.raise st d).saved j = s.saved j := rfl
@[simp] theorem State.raise_gpioStored (s : State) (st : Status) (d : Data) (j : Nat) : (s.raise st d).gpioStored j = s.gpioStored j := rfl
@[simp] theorem State.raise_locate (s : State) (st : Status) (d : Data) (q : Nat) : (s.raise st d).locate q = s.locate q := rfl
@[simp] theorem State.raise_gpioSampled (s : State) (st : Status) (d : Data) (j : Nat) : (s.raise st d).gpioSampled j = s.gpioSampled j := rfl
@[simp] theorem State.raise_arbiterGrants (s : State) (st : Status) (d : Data) (q r : Nat) : (s.raise st d).arbiterGrants q r = s.arbiterGrants q r := rfl

@[simp] theorem State.illegalCommand_gpioBase (s : State) (w : Word) : (s.illegalCommand w).gpioBase = s.gpioBase := rfl
@[simp] theorem State.illegalCommand_iomuxBase (s : State) (w : Word) : (s.illegalCommand w).iomuxBase = s.iomuxBase := rfl
@[simp] theorem State.illegalCommand_constructed (s : State) (w : Word) : (s.illegalCommand w).constructed = s.constructed := rfl
@[simp] theorem State.illegalCommand_override (s : State) (w : Word) : (s.illegalCommand w).override = s.override := rfl
@[simp] theorem State.illegalCommand_lock (s : State) (w : Word) : (s.illegalCommand w).lock = s.lock := rfl
@[simp] theorem State.illegalCommand_gpioRsv (s : State) (w : Word) : (s.illegalCommand w).gpioRsv = s.gpioRsv := rfl
@[simp] theorem State.illegalCommand_iomuxRsv (s : State) (w : Word) : (s.illegalCommand w).iomuxRsv = s.iomuxRsv := rfl
@[simp] theorem State.illegalCommand_locRaw (s : State) (w : Word) : (s.illegalCommand w).locRaw = s.locRaw := rfl
@[simp] theorem State.illegalCommand_origValid (s : State) (w : Word) : (s.illegalCommand w).origValid = s.origValid := rfl
@[simp] theorem State.illegalCommand_origVal (s : State) (w : Word) : (s.illegalCommand w).origVal = s.origVal := rfl
@[simp] theorem State.illegalCommand_gpio (s : State) (w : Word) : (s.illegalCommand w).gpio = s.gpio := rfl
@[simp] theorem State.illegalCommand_iomux (s : State) (w : Word) : (s.illegalCommand w).iomux = s.iomux := rfl
@[simp] theorem State.illegalCommand_pmidx (s : State) (w : Word) : (s.illegalCommand w).pmidx = s.pmidx := rfl
@[simp] theorem State.illegalCommand_pmreg (s : State) (w : Word) : (s.illegalCommand w).pmreg = s.pmreg := rfl
@[simp] theorem State.illegalCommand_ctxs (s : State) (w : Word) : (s.illegalCommand w).ctxs = s.ctxs.set s.cur { s.self with rsp := ⟨statusCode .illegalCommand, placed 0 w⟩, busy := false } := rfl
@[simp] theorem State.illegalCommand_inputs (s : State) (w : Word) : (s.illegalCommand w).inputs = s.inputs := rfl
@[simp] theorem State.illegalCommand_params (s : State) (w : Word) : (s.illegalCommand w).params = s.params := rfl
@[simp] theorem State.illegalCommand_cur (s : State) (w : Word) : (s.illegalCommand w).cur = s.cur := rfl
@[simp] theorem State.illegalCommand_agenda (s : State) (w : Word) : (s.illegalCommand w).agenda = s.agenda := rfl
@[simp] theorem State.illegalCommand_callers (s : State) (w : Word) : (s.illegalCommand w).callers = s.callers := rfl
@[simp] theorem State.illegalCommand_draws (s : State) (w : Word) : (s.illegalCommand w).draws = s.draws := rfl
@[simp] theorem State.illegalCommand_valid (s : State) (w : Word) (j : Nat) : (s.illegalCommand w).valid j = s.valid j := rfl
@[simp] theorem State.illegalCommand_skip (s : State) (w : Word) (j : Nat) : (s.illegalCommand w).skip j = s.skip j := rfl
@[simp] theorem State.illegalCommand_saved (s : State) (w : Word) (j : Nat) : (s.illegalCommand w).saved j = s.saved j := rfl
@[simp] theorem State.illegalCommand_gpioStored (s : State) (w : Word) (j : Nat) : (s.illegalCommand w).gpioStored j = s.gpioStored j := rfl
@[simp] theorem State.illegalCommand_locate (s : State) (w : Word) (q : Nat) : (s.illegalCommand w).locate q = s.locate q := rfl
@[simp] theorem State.illegalCommand_gpioSampled (s : State) (w : Word) (j : Nat) : (s.illegalCommand w).gpioSampled j = s.gpioSampled j := rfl
@[simp] theorem State.illegalCommand_arbiterGrants (s : State) (w : Word) (q r : Nat) : (s.illegalCommand w).arbiterGrants q r = s.arbiterGrants q r := rfl

@[simp] theorem State.withSelf_gpioBase (s : State) (x : Context) : (s.withSelf x).gpioBase = s.gpioBase := rfl
@[simp] theorem State.withSelf_iomuxBase (s : State) (x : Context) : (s.withSelf x).iomuxBase = s.iomuxBase := rfl
@[simp] theorem State.withSelf_constructed (s : State) (x : Context) : (s.withSelf x).constructed = s.constructed := rfl
@[simp] theorem State.withSelf_override (s : State) (x : Context) : (s.withSelf x).override = s.override := rfl
@[simp] theorem State.withSelf_lock (s : State) (x : Context) : (s.withSelf x).lock = s.lock := rfl
@[simp] theorem State.withSelf_gpioRsv (s : State) (x : Context) : (s.withSelf x).gpioRsv = s.gpioRsv := rfl
@[simp] theorem State.withSelf_iomuxRsv (s : State) (x : Context) : (s.withSelf x).iomuxRsv = s.iomuxRsv := rfl
@[simp] theorem State.withSelf_locRaw (s : State) (x : Context) : (s.withSelf x).locRaw = s.locRaw := rfl
@[simp] theorem State.withSelf_origValid (s : State) (x : Context) : (s.withSelf x).origValid = s.origValid := rfl
@[simp] theorem State.withSelf_origVal (s : State) (x : Context) : (s.withSelf x).origVal = s.origVal := rfl
@[simp] theorem State.withSelf_gpio (s : State) (x : Context) : (s.withSelf x).gpio = s.gpio := rfl
@[simp] theorem State.withSelf_iomux (s : State) (x : Context) : (s.withSelf x).iomux = s.iomux := rfl
@[simp] theorem State.withSelf_pmidx (s : State) (x : Context) : (s.withSelf x).pmidx = s.pmidx := rfl
@[simp] theorem State.withSelf_pmreg (s : State) (x : Context) : (s.withSelf x).pmreg = s.pmreg := rfl
@[simp] theorem State.withSelf_ctxs (s : State) (x : Context) : (s.withSelf x).ctxs = s.ctxs.set s.cur x := rfl
@[simp] theorem State.withSelf_inputs (s : State) (x : Context) : (s.withSelf x).inputs = s.inputs := rfl
@[simp] theorem State.withSelf_params (s : State) (x : Context) : (s.withSelf x).params = s.params := rfl
@[simp] theorem State.withSelf_cur (s : State) (x : Context) : (s.withSelf x).cur = s.cur := rfl
@[simp] theorem State.withSelf_agenda (s : State) (x : Context) : (s.withSelf x).agenda = s.agenda := rfl
@[simp] theorem State.withSelf_callers (s : State) (x : Context) : (s.withSelf x).callers = s.callers := rfl
@[simp] theorem State.withSelf_draws (s : State) (x : Context) : (s.withSelf x).draws = s.draws := rfl
@[simp] theorem State.withSelf_valid (s : State) (x : Context) (j : Nat) : (s.withSelf x).valid j = s.valid j := rfl
@[simp] theorem State.withSelf_skip (s : State) (x : Context) (j : Nat) : (s.withSelf x).skip j = s.skip j := rfl
@[simp] theorem State.withSelf_saved (s : State) (x : Context) (j : Nat) : (s.withSelf x).saved j = s.saved j := rfl
@[simp] theorem State.withSelf_gpioStored (s : State) (x : Context) (j : Nat) : (s.withSelf x).gpioStored j = s.gpioStored j := rfl
@[simp] theorem State.withSelf_locate (s : State) (x : Context) (q : Nat) : (s.withSelf x).locate q = s.locate q := rfl
@[simp] theorem State.withSelf_gpioSampled (s : State) (x : Context) (j : Nat) : (s.withSelf x).gpioSampled j = s.gpioSampled j := rfl
@[simp] theorem State.withSelf_arbiterGrants (s : State) (x : Context) (q r : Nat) : (s.withSelf x).arbiterGrants q r = s.arbiterGrants q r := rfl

@[simp] theorem State.issue_gpioBase (s : State) (c : Nat) (w : Word) : (s.issue c w).gpioBase = s.gpioBase := rfl
@[simp] theorem State.issue_iomuxBase (s : State) (c : Nat) (w : Word) : (s.issue c w).iomuxBase = s.iomuxBase := rfl
@[simp] theorem State.issue_constructed (s : State) (c : Nat) (w : Word) : (s.issue c w).constructed = s.constructed := rfl
@[simp] theorem State.issue_override (s : State) (c : Nat) (w : Word) : (s.issue c w).override = s.override := rfl
@[simp] theorem State.issue_lock (s : State) (c : Nat) (w : Word) : (s.issue c w).lock = s.lock := rfl
@[simp] theorem State.issue_gpioRsv (s : State) (c : Nat) (w : Word) : (s.issue c w).gpioRsv = s.gpioRsv := rfl
@[simp] theorem State.issue_iomuxRsv (s : State) (c : Nat) (w : Word) : (s.issue c w).iomuxRsv = s.iomuxRsv := rfl
@[simp] theorem State.issue_locRaw (s : State) (c : Nat) (w : Word) : (s.issue c w).locRaw = s.locRaw := rfl
@[simp] theorem State.issue_origValid (s : State) (c : Nat) (w : Word) : (s.issue c w).origValid = s.origValid := rfl
@[simp] theorem State.issue_origVal (s : State) (c : Nat) (w : Word) : (s.issue c w).origVal = s.origVal := rfl
@[simp] theorem State.issue_gpio (s : State) (c : Nat) (w : Word) : (s.issue c w).gpio = s.gpio := rfl
@[simp] theorem State.issue_iomux (s : State) (c : Nat) (w : Word) : (s.issue c w).iomux = s.iomux := rfl
@[simp] theorem State.issue_pmidx (s : State) (c : Nat) (w : Word) : (s.issue c w).pmidx = s.pmidx := rfl
@[simp] theorem State.issue_pmreg (s : State) (c : Nat) (w : Word) : (s.issue c w).pmreg = s.pmreg := rfl
@[simp] theorem State.issue_ctxs (s : State) (c : Nat) (w : Word) : (s.issue c w).ctxs = s.ctxs.set c { s.ctx c with cmd := w, busy := true, phase := 0 } := rfl
@[simp] theorem State.issue_inputs (s : State) (c : Nat) (w : Word) : (s.issue c w).inputs = s.inputs := rfl
@[simp] theorem State.issue_params (s : State) (c : Nat) (w : Word) : (s.issue c w).params = s.params := rfl
@[simp] theorem State.issue_cur (s : State) (c : Nat) (w : Word) : (s.issue c w).cur = s.cur := rfl
@[simp] theorem State.issue_agenda (s : State) (c : Nat) (w : Word) : (s.issue c w).agenda = s.agenda := rfl
@[simp] theorem State.issue_callers (s : State) (c : Nat) (w : Word) : (s.issue c w).callers = s.callers := rfl
@[simp] theorem State.issue_draws (s : State) (c : Nat) (w : Word) : (s.issue c w).draws = s.draws := rfl
@[simp] theorem State.issue_valid (s : State) (c : Nat) (w : Word) (j : Nat) : (s.issue c w).valid j = s.valid j := rfl
@[simp] theorem State.issue_skip (s : State) (c : Nat) (w : Word) (j : Nat) : (s.issue c w).skip j = s.skip j := rfl
@[simp] theorem State.issue_saved (s : State) (c : Nat) (w : Word) (j : Nat) : (s.issue c w).saved j = s.saved j := rfl
@[simp] theorem State.issue_gpioStored (s : State) (c : Nat) (w : Word) (j : Nat) : (s.issue c w).gpioStored j = s.gpioStored j := rfl
@[simp] theorem State.issue_locate (s : State) (c : Nat) (w : Word) (q : Nat) : (s.issue c w).locate q = s.locate q := rfl
@[simp] theorem State.issue_gpioSampled (s : State) (c : Nat) (w : Word) (j : Nat) : (s.issue c w).gpioSampled j = s.gpioSampled j := rfl
@[simp] theorem State.issue_arbiterGrants (s : State) (c : Nat) (w : Word) (q r : Nat) : (s.issue c w).arbiterGrants q r = s.arbiterGrants q r := rfl

end Sys2Proof.Machine
end

