-- ==== Sys2Proof/Laws/Memory.lean ====
section
/-! SUPPORT. The byte files: reading after writing, and that every operation on them keeps the canonical form. -/

namespace Sys2Proof.Machine

@[simp] theorem Memory.read_nil (a : Nat) : Memory.read [] a = Memory.unlisted := rfl

theorem Memory.read_cons (k : Nat) (v : Byte) (m : Memory) (a : Nat) :
    Memory.read ((k, v) :: m) a = if k = a then v else Memory.read m a := rfl

theorem Memory.read_erase_same (m : Memory) (a : Nat) : (m.erase a).read a = Memory.unlisted := by
  induction m with
  | nil => rfl
  | cons c m ih =>
    obtain ⟨k, v⟩ := c
    by_cases h : k = a
    · simpa [Memory.erase, h] using ih
    · simpa [Memory.erase, h, Memory.read_cons] using ih

theorem Memory.read_erase_other (m : Memory) {a b : Nat} (hne : b ≠ a) : (m.erase a).read b = m.read b := by
  induction m with
  | nil => rfl
  | cons c m ih =>
    obtain ⟨k, v⟩ := c
    by_cases h : k = a
    · have hb : k ≠ b := fun e => hne (e ▸ h)
      simpa [Memory.erase, h, Memory.read_cons, hb, show a ≠ b from fun e => hne e.symm] using ih
    · by_cases hb : k = b
      · simp [Memory.erase, Memory.read_cons, hb, hne]
      · simpa [Memory.erase, h, Memory.read_cons, hb] using ih

theorem Memory.read_insert_same (m : Memory) (a : Nat) (v : Byte) (h : ∀ c ∈ m, c.1 ≠ a) : (m.insert a v).read a = v := by
  induction m with
  | nil => simp [Memory.insert, Memory.read_cons]
  | cons c m ih =>
    obtain ⟨k, w⟩ := c
    have hk : k ≠ a := h (k, w) (by simp)
    by_cases hlt : a < k
    · simp [Memory.insert, hlt, Memory.read_cons]
    · simpa [Memory.insert, hlt, Memory.read_cons, hk] using ih fun c hc => h c (by simp [hc])

theorem Memory.read_insert_other (m : Memory) {a b : Nat} (v : Byte) (hne : b ≠ a) : (m.insert a v).read b = m.read b := by
  induction m with
  | nil => simp [Memory.insert, Memory.read_cons, hne.symm]
  | cons c m ih =>
    obtain ⟨k, w⟩ := c
    by_cases hlt : a < k
    · simp [Memory.insert, hlt, Memory.read_cons, hne.symm]
    · simp [Memory.insert, hlt, Memory.read_cons, ih]

theorem Memory.not_mem_erase (m : Memory) (a : Nat) : ∀ c ∈ m.erase a, c.1 ≠ a := by
  intro c hc
  simpa using (List.mem_filter.mp hc).2

/-- Reading back the byte just written. -/
@[simp] theorem Memory.read_write_same (m : Memory) (a : Nat) (v : Byte) : (m.write a v).read a = v := by
  unfold Memory.write
  split
  · next h => rw [Memory.read_erase_same, h]
  · exact Memory.read_insert_same _ _ _ (Memory.not_mem_erase m a)

/-- A write leaves every other byte alone. -/
theorem Memory.read_write_other (m : Memory) {a b : Nat} (v : Byte) (hne : b ≠ a) : (m.write a v).read b = m.read b := by
  unfold Memory.write
  split
  · exact Memory.read_erase_other m hne
  · rw [Memory.read_insert_other _ v hne, Memory.read_erase_other m hne]

theorem Memory.read_write (m : Memory) (a b : Nat) (v : Byte) : (m.write a v).read b = if b = a then v else m.read b := by
  split
  · next h => rw [h, Memory.read_write_same]
  · next h => exact Memory.read_write_other m v h

/-! ### The canonical form -/

@[simp] theorem Memory.wf_nil : Memory.wf [] := by simp [Memory.wf]

theorem Memory.wf_erase {m : Memory} (h : m.wf) (a : Nat) : (m.erase a).wf :=
  ⟨h.1.filter _, fun c hc => h.2 c (List.mem_filter.mp hc).1⟩

theorem Memory.mem_insert {m : Memory} {a : Nat} {v : Byte} {c : Host.Cell} (h : c ∈ m.insert a v) : c = (a, v) ∨ c ∈ m := by
  induction m with
  | nil => simpa [Memory.insert] using h
  | cons d m ih =>
    obtain ⟨k, w⟩ := d
    by_cases hlt : a < k
    · simpa [Memory.insert, hlt] using h
    · simp only [Memory.insert, hlt, if_false, List.mem_cons] at h
      rcases h with h | h
      · exact .inr (by simp [h])
      · rcases ih h with h | h
        · exact .inl h
        · exact .inr (by simp [h])

theorem Memory.wf_insert {m : Memory} (h : m.wf) {a : Nat} (ha : ∀ c ∈ m, c.1 ≠ a) {v : Byte} (hv : v ≠ Memory.unlisted) :
    (m.insert a v).wf := by
  refine ⟨?_, fun c hc => ?_⟩
  · induction m with
    | nil => simp [Memory.insert]
    | cons d m ih =>
      obtain ⟨k, w⟩ := d
      have hk : k ≠ a := ha (k, w) (by simp)
      have hp := List.pairwise_cons.mp h.1
      by_cases hlt : a < k
      · simp only [Memory.insert, hlt, if_true]
        refine List.pairwise_cons.mpr ⟨fun c hc => ?_, h.1⟩
        rcases List.mem_cons.mp hc with e | hc
        · rw [e]; exact hlt
        · exact Nat.lt_trans hlt (hp.1 c hc)
      · simp only [Memory.insert, hlt, if_false]
        refine List.pairwise_cons.mpr ⟨fun c hc => ?_, ih ⟨hp.2, fun c hc => h.2 c (by simp [hc])⟩ fun c hc => ha c (by simp [hc])⟩
        rcases Memory.mem_insert hc with e | hc
        · rw [e]; show k < a; omega
        · exact hp.1 c hc
  · rcases Memory.mem_insert hc with e | hc
    · rw [e]; exact hv
    · exact h.2 c hc

/-- A write keeps the canonical form. -/
theorem Memory.wf_write {m : Memory} (h : m.wf) (a : Nat) (v : Byte) : (m.write a v).wf := by
  unfold Memory.write
  split
  · exact Memory.wf_erase h a
  · next hv => exact Memory.wf_insert (Memory.wf_erase h a) (Memory.not_mem_erase m a) hv

/-- What an entry of a written file can be. -/
theorem Memory.mem_write {m : Memory} {a : Nat} {v : Byte} {c : Host.Cell} (h : c ∈ m.write a v) : c = (a, v) ∨ c ∈ m := by
  unfold Memory.write at h
  split at h
  · exact .inr (List.mem_filter.mp h).1
  · rcases Memory.mem_insert h with h | h
    · exact .inl h
    · exact .inr (List.mem_filter.mp h).1

theorem Memory.foldl_write_wf (f : Nat → Byte) (l : List Nat) {m : Memory} (h : m.wf) :
    (l.foldl (fun m i => m.write i (f i)) m).wf := by
  induction l generalizing m with
  | nil => exact h
  | cons i l ih => exact ih (Memory.wf_write h i (f i))

/-- A file given by its bytes is in canonical form. -/
theorem Memory.wf_tabulate (f : Nat → Byte) : (Memory.tabulate f).wf := Memory.foldl_write_wf f _ Memory.wf_nil

theorem Memory.foldl_write_mem (f : Nat → Byte) (l : List Nat) {m : Memory} {c : Host.Cell}
    (h : c ∈ l.foldl (fun m i => m.write i (f i)) m) : (c.1 ∈ l ∧ c.2 = f c.1) ∨ c ∈ m := by
  induction l generalizing m with
  | nil => exact .inr h
  | cons i l ih =>
    rcases ih h with ⟨h, e⟩ | h
    · exact .inl ⟨by simp [h], e⟩
    · rcases Memory.mem_write h with h | h
      · exact .inl ⟨by simp [h], by simp [h]⟩
      · exact .inr h

/-- The entries of a file given by its bytes. -/
theorem Memory.mem_tabulate {f : Nat → Byte} {c : Host.Cell} (h : c ∈ Memory.tabulate f) : c.1 < 256 ∧ c.2 = f c.1 := by
  rcases Memory.foldl_write_mem f _ h with ⟨h, e⟩ | h
  · exact ⟨List.mem_range.mp h, e⟩
  · simp at h

theorem Memory.read_foldl_write (f : Nat → Byte) (l : List Nat) (m : Memory) (a : Nat) :
    (l.foldl (fun m i => m.write i (f i)) m).read a = if a ∈ l then f a else m.read a := by
  induction l generalizing m with
  | nil => simp
  | cons i l ih =>
    rw [List.foldl_cons, ih, Memory.read_write]
    by_cases h : a ∈ l
    · simp [h]
    · by_cases e : a = i <;> simp [h, e]

/-- Reading a file given by its bytes. -/
theorem Memory.read_tabulate (f : Nat → Byte) {a : Nat} (h : a < 256) : (Memory.tabulate f).read a = f a := by
  rw [Memory.tabulate, Memory.read_foldl_write, if_pos (List.mem_range.mpr h)]

/-! ### Equal reads, equal files -/

theorem Memory.read_of_lt_all {m : Memory} {a : Nat} (h : ∀ c ∈ m, a < c.1) : m.read a = Memory.unlisted := by
  induction m with
  | nil => rfl
  | cons c m ih =>
    obtain ⟨k, v⟩ := c
    have hk : a < k := h (k, v) (by simp)
    rw [Memory.read_cons, if_neg (by omega), ih fun c hc => h c (by simp [hc])]

theorem Memory.wf_tail {c : Host.Cell} {m : Memory} (h : Memory.wf (c :: m)) : Memory.wf m :=
  ⟨(List.pairwise_cons.mp h.1).2, fun d hd => h.2 d (by simp [hd])⟩

theorem Memory.wf_head_lt {c : Host.Cell} {m : Memory} (h : Memory.wf (c :: m)) : ∀ d ∈ m, c.1 < d.1 :=
  (List.pairwise_cons.mp h.1).1

/-- The canonical form is unique: two files with the same bytes are the same data. -/
theorem Memory.ext_of_read {m n : Memory} (hm : m.wf) (hn : n.wf) (h : ∀ a, m.read a = n.read a) : m = n := by
  induction m generalizing n with
  | nil =>
    cases n with
    | nil => rfl
    | cons d n =>
      obtain ⟨k, v⟩ := d
      exact absurd (by simpa [Memory.read_cons] using (h k).symm) (hn.2 (k, v) (by simp))
  | cons c m ih =>
    obtain ⟨k, v⟩ := c
    cases n with
    | nil => exact absurd (by simpa [Memory.read_cons] using h k) (hm.2 (k, v) (by simp))
    | cons d n =>
      obtain ⟨l, w⟩ := d
      have hkm := Memory.wf_head_lt hm
      have hln := Memory.wf_head_lt hn
      have hv : v ≠ Memory.unlisted := hm.2 (k, v) (by simp)
      have hw : w ≠ Memory.unlisted := hn.2 (l, w) (by simp)
      have hkl : k = l := by
        rcases Nat.lt_trichotomy k l with hlt | e | hgt
        · have hk := h k
          rw [Memory.read_cons, if_pos rfl, Memory.read_cons, if_neg (by omega),
            Memory.read_of_lt_all fun d hd => Nat.lt_trans hlt (hln d hd)] at hk
          exact absurd hk hv
        · exact e
        · have hl := h l
          rw [Memory.read_cons, if_neg (by omega), Memory.read_of_lt_all fun d hd => Nat.lt_trans hgt (hkm d hd),
            Memory.read_cons, if_pos rfl] at hl
          exact absurd hl.symm hw
      subst hkl
      have hvw : v = w := by simpa [Memory.read_cons] using h k
      subst hvw
      refine congrArg _ (ih (Memory.wf_tail hm) (Memory.wf_tail hn) fun a => ?_)
      by_cases e : k = a
      · subst e
        rw [Memory.read_of_lt_all hkm, Memory.read_of_lt_all hln]
      · simpa [Memory.read_cons, e] using h a

/-- Writing the byte that is already there changes nothing. -/
theorem Memory.write_read {m : Memory} (h : m.wf) (a : Nat) : m.write a (m.read a) = m := by
  refine Memory.ext_of_read (Memory.wf_write h a _) h fun b => ?_
  rw [Memory.read_write]
  split <;> simp_all

end Sys2Proof.Machine
end

