-- ==== Sys2Proof/Laws/Ops.lean ====
section
/-! SUPPORT. For each shared operation one lemma that says all it can do: what a continued operation answers, and the equations of the
reads and writes that every command makes. -/

namespace Sys2Proof.Machine

/-! ### The running context -/

theorem State.self_eq {s : State} (h : s.cur < s.ctxs.length) : s.self = s.ctxs[s.cur] := by
  simp [State.self, State.ctx, h]

theorem State.ctx_of_ge {s : State} {c : Nat} (h : s.ctxs.length ≤ c) : s.ctx c = Context.idle := by
  simp [State.ctx, List.getD, h]

@[simp] theorem State.upd_length (s : State) (f : Context → Context) : (s.upd f).ctxs.length = s.ctxs.length := by simp

theorem State.upd_self {s : State} (h : s.cur < s.ctxs.length) (f : Context → Context) : (s.upd f).self = f s.self := by
  simp [State.self, State.ctx, h]

theorem State.upd_ctx_other (s : State) (f : Context → Context) {c : Nat} (h : c ≠ s.cur) : (s.upd f).ctx c = s.ctx c := by
  simp [State.ctx, List.getD, List.getElem?_set_ne (Ne.symm h)]

theorem State.upd_upd {s : State} (h : s.cur < s.ctxs.length) (f g : Context → Context) :
    (s.upd f).upd g = s.upd fun x => g (f x) := by
  show State.mk .. = State.mk ..
  congr 1
  simp [State.upd_self h]

theorem State.goto_eq (s : State) (p : BitVec 4) : s.goto p = s.upd fun x => { x with phase := p } := rfl

theorem State.respond_eq (s : State) (st : Status) (d : Data) :
    s.respond st d = s.upd fun x => { x with rsp := ⟨statusCode st, d⟩, busy := false } := rfl

theorem State.raise_eq (s : State) (st : Status) (d : Data) :
    s.raise st d = (s.setLock (if s.lock = some s.cur then none else s.lock)).respond st d := rfl

theorem State.goto_self {s : State} (h : s.cur < s.ctxs.length) (p : BitVec 4) : (s.goto p).self = { s.self with phase := p } :=
  State.upd_self h _

/-- `Respond` drives the response and ends the command (R97). -/
theorem State.respond_self {s : State} (h : s.cur < s.ctxs.length) (st : Status) (d : Data) :
    (s.respond st d).self = { s.self with rsp := ⟨statusCode st, d⟩, busy := false } :=
  State.upd_self h _

theorem State.raise_self {s : State} (h : s.cur < s.ctxs.length) (st : Status) (d : Data) :
    (s.raise st d).self = { s.self with rsp := ⟨statusCode st, d⟩, busy := false } :=
  State.upd_self (s := s.setLock (if s.lock = some s.cur then none else s.lock)) h _

/-! ### Dispatch checks and the lock -/

/-- All that the dispatch check of R95 can answer. -/
theorem needsController_next {s t : State} {r : Result} (h : needsController s r = .next t) :
    (s.constructed = true ∧ r = .next t) ∨ (s.constructed = false ∧ t = s.respond .notReady 0) := by
  unfold needsController at h
  split at h
  · next hc => exact .inl ⟨hc, h⟩
  · next hc => exact .inr ⟨by simpa using hc, by injection h with h; exact h.symm⟩

/-- All that INIT's dispatch check can answer. -/
theorem needsNoController_next {s t : State} {r : Result} (h : needsNoController s r = .next t) :
    (s.constructed = false ∧ r = .next t) ∨ (s.constructed = true ∧ t = s.respond .alreadyConstructed 0) := by
  unfold needsNoController at h
  split at h
  · next hc => exact .inr ⟨hc, by injection h with h; exact h.symm⟩
  · next hc => exact .inl ⟨by simpa using hc, h⟩

/-- All that `Acquire` can answer: it takes a free lock, or the context is held. -/
theorem acquire_next {s t : State} {k : State → Result} (h : acquire s k = .next t) :
    (s.lock = none ∧ k (s.setLock (some s.cur)) = .next t) ∨ (s.lock ≠ none ∧ t = s) := by
  unfold acquire at h
  split at h
  · next hl => exact .inl ⟨hl, h⟩
  · next hl => exact .inr ⟨hl, by injection h with h; exact h.symm⟩

/-- All that `Release` can answer a next state with. -/
theorem release_next {s t : State} {k : State → Result} (h : release s k = .next t) :
    s.lock = some s.cur ∧ k (s.setLock none) = .next t := by
  unfold release at h
  split at h
  · next hl => exact ⟨hl, h⟩
  · cases h

/-! ### The buses -/

theorem State.locate_gpioAddr (s : State) {i : Nat} (h : i < Config.nPin) : s.locate (gpioAddr s i) = some (.gpio i) := by
  unfold State.locate gpioAddr
  rw [if_pos (by omega)]
  simp

theorem State.locate_iomuxAddr (s : State) {i : Nat} (h : i < Config.nPin) :
    s.locate (iomuxAddr s i) = some (.iomux i) ∨ ∃ j, j < Config.nPin ∧ s.locate (iomuxAddr s i) = some (.gpio j) := by
  unfold State.locate iomuxAddr
  split
  · next hg => exact .inr ⟨_, by omega, rfl⟩
  · rw [if_pos (by omega)]
    simp

/-- Where the two banks do not overlap, `IOMUX_BASE + i` names `IOMUX[i]`. -/
theorem State.locate_iomuxAddr_of_apart (s : State) {i : Nat} (h : i < Config.nPin)
    (apart : s.gpioBase.toNat + Config.nPin ≤ s.iomuxBase.toNat ∨ s.iomuxBase.toNat + Config.nPin ≤ s.gpioBase.toNat) :
    s.locate (iomuxAddr s i) = some (.iomux i) := by
  unfold State.locate iomuxAddr
  rw [if_neg (by omega), if_pos (by omega)]
  simp

/-- A read at `GPIO_BASE + i` samples `GPIO[i]` (R67). -/
theorem memRead_gpioAddr (s : State) {i : Nat} (h : i < Config.nPin) (k : Byte → State → Result) :
    memRead s (gpioAddr s i) k = k (s.gpioSampled i) s.drew := by
  simp [memRead, s.locate_gpioAddr h]

/-- A read at `IOMUX_BASE + i` returns `IOMUX[i]` (R67), where the banks do not overlap. -/
theorem memRead_iomuxAddr (s : State) {i : Nat} (h : i < Config.nPin)
    (apart : s.gpioBase.toNat + Config.nPin ≤ s.iomuxBase.toNat ∨ s.iomuxBase.toNat + Config.nPin ≤ s.gpioBase.toNat)
    (k : Byte → State → Result) : memRead s (iomuxAddr s i) k = k (s.iomux.read i) s := by
  simp [memRead, s.locate_iomuxAddr_of_apart h apart]

/-- A write at `GPIO_BASE + i` stores into `GPIO[i]` (R68). -/
theorem memWrite_gpioAddr (s : State) {i : Nat} (h : i < Config.nPin) (v : Byte) (k : State → Result) :
    memWrite s (gpioAddr s i) v k = k (s.storeGpio i v) := by
  simp [memWrite, s.locate_gpioAddr h]

/-- All that a read can answer a next state with. -/
theorem memRead_next {s t : State} {a : Nat} {k : Byte → State → Result} (h : memRead s a k = .next t) :
    (∃ i, s.locate a = some (.gpio i) ∧ k (s.gpioSampled i) s.drew = .next t) ∨
      ∃ i, s.locate a = some (.iomux i) ∧ k (s.iomux.read i) s = .next t := by
  unfold memRead at h
  split at h
  · next i hl => exact .inl ⟨i, hl, h⟩
  · next i hl => exact .inr ⟨i, hl, h⟩
  · cases h

/-- All that a write can answer a next state with: a byte of the GPIO bank is stored. -/
theorem memWrite_next {s t : State} {a : Nat} {v : Byte} {k : State → Result} (h : memWrite s a v k = .next t) :
    ∃ i, s.locate a = some (.gpio i) ∧ k (s.storeGpio i v) = .next t := by
  unfold memWrite at h
  split at h
  · next i hl => exact ⟨i, hl, h⟩
  · cases h
  · cases h

theorem ioWrite_next {s t : State} {p : BitVec 16} {v : Byte} {k : State → Result} (h : ioWrite s p v k = .next t) :
    p = s.params.pmIndexPort ∧ k (s.setPmidx v) = .next t := by
  unfold ioWrite at h
  split at h
  · next hp => exact ⟨hp, h⟩
  · cases h

theorem ioRead_next {s t : State} {p : BitVec 16} {k : Byte → State → Result} (h : ioRead s p k = .next t) :
    p = s.params.pmDataPort ∧ k (s.pmreg.read s.pmidx.toNat) s = .next t := by
  unfold ioRead at h
  split at h
  · next hp => exact ⟨hp, h⟩
  · cases h

/-- `RegionReserve` always answers (R72). -/
theorem regionReserve_eq (s : State) (b : Base) (k : Bool → State → Result) :
    regionReserve s b k = k (s.arbiterGrants b.toNat s.params.bankSize) s.drew := rfl

/-- A granted region lies wholly below 2^32 (R66). -/
theorem State.arbiterGrants_inSpace {s : State} {b n : Nat} (h : s.arbiterGrants b n = true) : b + n ≤ 2 ^ 32 := by
  simp only [State.arbiterGrants, Bool.and_eq_true, decide_eq_true_eq] at h
  exact h.1

/-! ### The table -/

theorem State.valid_saveOriginal (s : State) {i : Nat} (h : i < 256) (b : Byte) (j : Nat) :
    (s.saveOriginal i b).valid j = if j = i then true else s.valid j := by
  by_cases e : j = i
  · subst e; simp [State.valid, h]
  · simp [State.valid, e, Vector.getElem?_setIfInBounds_ne (Ne.symm e)]

theorem State.saved_saveOriginal (s : State) {i : Nat} (h : i < 256) (b : Byte) (j : Nat) :
    (s.saveOriginal i b).saved j = if j = i then b else s.saved j := by
  by_cases e : j = i
  · subst e; simp [State.saved, h]
  · simp [State.saved, e, Vector.getElem?_setIfInBounds_ne (Ne.symm e)]

theorem State.valid_dropOriginal (s : State) (i j : Nat) :
    (s.dropOriginal i).valid j = if j = i then false else s.valid j := by
  by_cases e : j = i
  · subst e
    by_cases h : j < 256 <;> simp [State.valid, h]
  · simp [State.valid, e, Vector.getElem?_setIfInBounds_ne (Ne.symm e)]

/-- The stored bits after a store: the byte without its input bit at that pin, every other pin as before (R68). -/
theorem State.gpioStored_storeGpio (s : State) (i : Nat) (v : Byte) (j : Nat) :
    (s.storeGpio i v).gpioStored j = if j = i then v &&& ~~~maskIn s.params.layout else s.gpioStored j := by
  simp only [State.gpioStored, State.storeGpio_gpio, State.storeGpio_params, Memory.read_write]
  split
  · rw [BitVec.and_assoc, BitVec.and_self]
  · rfl

end Sys2Proof.Machine
end

