-- ==== Sys2Proof/Laws/PerInstr.lean ====
section
/-! SUPPORT. Facts stated of each instruction one by one: its encoding is a word that its row of spec/30_encoding.md R93 selects. -/

namespace Sys2Proof.Laws

/-- The word of `i` is selected by the row of R93 that `i` is an operation of. -/
def EncodeRow.Statement (i : Instr) : Prop := (rowOf i).selects (encode i) = true

/-- The high byte of an assembled word decides a test whose mask covers only that byte. -/
theorem selects_of_high (r : OpcodeRow) (op : BitVec 5) (v : Bool) (arg : Byte)
    (hm : r.mask.extractLsb' 0 8 = 0) (hp : r.pattern.extractLsb' 0 8 = 0)
    (h : (op ++ 0#2 ++ BitVec.ofBool v) &&& r.mask.extractLsb' 8 8 = r.pattern.extractLsb' 8 8) :
    r.selects (assemble op v arg) = true := by
  have split16 : ∀ x : Word, x = x.extractLsb' 8 8 ++ x.extractLsb' 0 8 := by
    intro x
    ext k hk
    rw [BitVec.getElem_append]
    split
    · next h8 => simp [BitVec.getLsbD_eq_getElem hk]
    · next h8 => simp [show 8 + (k - 8) = k by omega, BitVec.getLsbD_eq_getElem hk]
  simp only [OpcodeRow.selects, beq_iff_eq]
  rw [split16 r.mask, split16 r.pattern, assemble, BitVec.and_append, h, hm, hp]
  simp

theorem EncodeRow.req (i : Byte) : EncodeRow.Statement (.req i) := selects_of_high _ _ _ _ (by simp only [rowOf]; decide) (by simp only [rowOf]; decide) (by simp only [rowOf]; decide)

theorem EncodeRow.free (i : Byte) : EncodeRow.Statement (.free i) := selects_of_high _ _ _ _ (by simp only [rowOf]; decide) (by simp only [rowOf]; decide) (by simp only [rowOf]; decide)

theorem EncodeRow.getl (i : Byte) : EncodeRow.Statement (.getl i) := selects_of_high _ _ _ _ (by simp only [rowOf]; decide) (by simp only [rowOf]; decide) (by simp only [rowOf]; decide)

theorem EncodeRow.getd (i : Byte) : EncodeRow.Statement (.getd i) := selects_of_high _ _ _ _ (by simp only [rowOf]; decide) (by simp only [rowOf]; decide) (by simp only [rowOf]; decide)

theorem EncodeRow.din (i : Byte) : EncodeRow.Statement (.din i) := selects_of_high _ _ _ _ (by simp only [rowOf]; decide) (by simp only [rowOf]; decide) (by simp only [rowOf]; decide)

theorem EncodeRow.diag (i : Byte) : EncodeRow.Statement (.diag i) := selects_of_high _ _ _ _ (by simp only [rowOf]; decide) (by simp only [rowOf]; decide) (by simp only [rowOf]; decide)

theorem EncodeRow.down (b : Byte) : EncodeRow.Statement (.down b) := selects_of_high _ _ _ _ (by simp only [rowOf]; decide) (by simp only [rowOf]; decide) (by simp only [rowOf]; decide)

theorem EncodeRow.dpull (b : Byte) : EncodeRow.Statement (.dpull b) := selects_of_high _ _ _ _ (by simp only [rowOf]; decide) (by simp only [rowOf]; decide) (by simp only [rowOf]; decide)

theorem EncodeRow.dmux (b : Byte) : EncodeRow.Statement (.dmux b) := selects_of_high _ _ _ _ (by simp only [rowOf]; decide) (by simp only [rowOf]; decide) (by simp only [rowOf]; decide)

theorem EncodeRow.isout (b : Byte) : EncodeRow.Statement (.isout b) := selects_of_high _ _ _ _ (by simp only [rowOf]; decide) (by simp only [rowOf]; decide) (by simp only [rowOf]; decide)

theorem EncodeRow.rlvl (b : Byte) : EncodeRow.Statement (.rlvl b) := selects_of_high _ _ _ _ (by simp only [rowOf]; decide) (by simp only [rowOf]; decide) (by simp only [rowOf]; decide)

theorem EncodeRow.sin (b : Byte) : EncodeRow.Statement (.sin b) := selects_of_high _ _ _ _ (by simp only [rowOf]; decide) (by simp only [rowOf]; decide) (by simp only [rowOf]; decide)

theorem EncodeRow.setl (i : Byte) (v : Bool) : EncodeRow.Statement (.setl i v) := by
  cases v <;> exact selects_of_high _ _ _ _ (by simp only [rowOf]; decide) (by simp only [rowOf]; decide) (by simp only [rowOf]; decide)

theorem EncodeRow.dout (i : Byte) (v : Bool) : EncodeRow.Statement (.dout i v) := by
  cases v <;> exact selects_of_high _ _ _ _ (by simp only [rowOf]; decide) (by simp only [rowOf]; decide) (by simp only [rowOf]; decide)

theorem EncodeRow.sout (i : Byte) (v : Bool) : EncodeRow.Statement (.sout i v) := by
  cases v <;> exact selects_of_high _ _ _ _ (by simp only [rowOf]; decide) (by simp only [rowOf]; decide) (by simp only [rowOf]; decide)

theorem EncodeRow.dump : EncodeRow.Statement .dump := rfl

theorem EncodeRow.init : EncodeRow.Statement .init := rfl

theorem EncodeRow.teardown : EncodeRow.Statement .teardown := rfl

end Sys2Proof.Laws
end

