-- ==== Sys2Proof/Tests/Slice0.lean ====
section
/-! SUPPORT. Tests. Expected values are those of spec/95_test_vectors.md (its vectors are named by their ids) or are read off the
patterns of spec/30_encoding.md R93. The last part shows, for each statement with hypotheses, a state that meets them. -/

namespace Sys2Proof.Tests

open Sys2Proof Sys2Proof.Machine

/-! ## Well-formedness: an ill-formed term for each check, which the check refuses -/

theorem test_wf_command : (⟨0x05, 0, true, 23⟩ : Command).wellFormed = true := by decide
theorem test_wf_op_below : (⟨0x00, 0, false, 0⟩ : Command).wellFormed = false := by decide
theorem test_wf_op_between : (⟨0x0C, 0, false, 0⟩ : Command).wellFormed = false := by decide
theorem test_wf_op_above : (⟨0x17, 0, false, 0⟩ : Command).wellFormed = false := by decide
theorem test_wf_reserved_bits : (⟨0x01, 1, false, 23⟩ : Command).wellFormed = false := by decide
theorem test_wf_stray_value : (⟨0x01, 0, true, 23⟩ : Command).wellFormed = false := by decide
theorem test_wf_stray_arg : (⟨0x0A, 0, false, 1⟩ : Command).wellFormed = false := by decide

theorem test_wf_params : Params.default.wellFormed = true := by decide
theorem test_wf_fields_overlap :
    ({ Params.default with layout := { Layout.default with outBit := 5 } } : Params).wellFormed = false := by decide
theorem test_wf_field_outside_byte :
    ({ Params.default with layout := { Layout.default with inBit := 8 } } : Params).wellFormed = false := by decide
theorem test_wf_mux_outside_byte :
    ({ Params.default with layout := { Layout.default with muxLsb := 7 } } : Params).wellFormed = false := by decide
theorem test_wf_owner_code :
    ({ Params.default with ownCode := #v[.none, .host, .host, .invalid] } : Params).wellFormed = false := by decide
theorem test_wf_pull_code :
    ({ Params.default with pullCode := #v[.pullUp, .pullUp, .invalid, .pullDown] } : Params).wellFormed = false := by decide
theorem test_wf_one_port : ({ Params.default with pmDataPort := 0xCD6 } : Params).wellFormed = false := by decide
theorem test_wf_base_register : ({ Params.default with pmBaseReg := 253 } : Params).wellFormed = false := by decide
theorem test_wf_small_bank : ({ Params.default with bankSize := 255 } : Params).wellFormed = false := by decide
theorem test_wf_banks_overlap : ({ Params.default with iomuxOffset := 0x1FF } : Params).wellFormed = false := by decide
theorem test_wf_offset_too_large : ({ Params.default with iomuxOffset := 2 ^ 32 } : Params).wellFormed = false := by decide

/-! ## Decoding: one word of each row of R93, written out as op, z, v, arg -/

theorem test_decode_req : decode 0b00001_00_0_00010111 = .ok (.req 23) := by decide
theorem test_decode_free : decode 0b00010_00_0_10000001 = .ok (.free 129) := by decide
theorem test_decode_getl : decode 0b00011_00_0_00101000 = .ok (.getl 40) := by decide
theorem test_decode_getd : decode 0b00100_00_0_00010111 = .ok (.getd 23) := by decide
theorem test_decode_setl : decode 0b00101_00_1_00010111 = .ok (.setl 23 true) := by decide
theorem test_decode_dout : decode 0b00110_00_0_10111011 = .ok (.dout 187 false) := by decide
theorem test_decode_din : decode 0b00111_00_0_00010111 = .ok (.din 23) := by decide
theorem test_decode_diag : decode 0b01000_00_0_01100100 = .ok (.diag 100) := by decide
theorem test_decode_dump : decode 0b01001_00_0_00000000 = .ok .dump := by decide
theorem test_decode_init : decode 0b01010_00_0_00000000 = .ok .init := by decide
theorem test_decode_teardown : decode 0b01011_00_0_00000000 = .ok .teardown := by decide
theorem test_decode_down : decode 0b10000_00_0_11100101 = .ok (.down 0xE5) := by decide
theorem test_decode_dpull : decode 0b10001_00_0_00010000 = .ok (.dpull 0x10) := by decide
theorem test_decode_dmux : decode 0b10010_00_0_00000010 = .ok (.dmux 0x02) := by decide
theorem test_decode_isout : decode 0b10011_00_0_00101000 = .ok (.isout 0x28) := by decide
theorem test_decode_rlvl : decode 0b10100_00_0_10000000 = .ok (.rlvl 0x80) := by decide
theorem test_decode_sout : decode 0b10101_00_1_01100010 = .ok (.sout 0x62 true) := by decide
theorem test_decode_sin : decode 0b10110_00_0_00100000 = .ok (.sin 0x20) := by decide

/-- E6 to E14: the illegal words. -/
theorem test_decode_illegal :
    ([0x0000, 0x6000, 0xB800, 0xFFFF, 0x0A17, 0x0917, 0x5001, 0x4900, 0xB120] : List Word).all
      (fun w => (decode w).toOption = none) = true := by decide

/-- Bits above the word are no part of a command. -/
theorem test_table_word : decodeTableWord 16 0x12917 = some (.setl 23 true) := by decide
theorem test_table_word_illegal : decodeTableWord 16 0x0A17 = none := by decide

/-- The examples of R93 as R96 writes them. -/
theorem test_written : written 0 (.setl 23 true) = "SETL 23, 1" ∧ written 1 (.dout 187 false) = "c1: DOUT 187, 0" := by decide

/-! ## One step -/

/-- A context that runs `w` at row `p`. -/
def running (w : Word) (p : BitVec 4) : Context := { Context.idle with busy := true, cmd := w, phase := p }

/-- A constructed controller with the banks of vector B1, pads low; context 0 is `x` and is the next to move, context 1 is idle. -/
def scene (x : Context) : State :=
  { State.reset with
    constructed := true
    gpioRsv := true
    iomuxRsv := true
    gpioBase := 0xF0000100
    iomuxBase := 0xF0000D00
    inputs := { Inputs.undriven with chipMatch := true, arbiter := some true, pads := Vector.replicate 256 (some false) }
    pmreg := [(0x24, 0x01), (0x27, 0xF0)]
    ctxs := [x, Context.idle]
    agenda := [.run 0] }

/-- The same inside the locked section of context 0, with the byte `b` read. -/
def locked (w : Word) (p : BitVec 4) (b : Byte) : State :=
  { scene { running w p with b := b } with lock := some 0 }

/-- The same with the override on. -/
def overridden (s : State) : State := { s with override := true }

/-- The same with the GPIO byte of pin `i` stored as `v`. -/
def withByte (i : Nat) (v : Byte) (s : State) : State := { s with gpio := [(i, v)] }

/-- The same with pin `i` requested and the byte `v` saved. -/
def requested (i : Nat) (v : Byte) (s : State) : State := s.saveOriginal i v

/-- Before INIT: nothing is held. -/
def unbuilt (s : State) : State := { s with constructed := false, gpioRsv := false, iomuxRsv := false, gpioBase := 0, iomuxBase := 0 }

/-- The state a step goes to. -/
def after : Result → State
  | .next t => t
  | .fault _ => State.reset
  | .refused _ => State.reset

/-- The step has a next state. -/
def goesOn : Result → Bool
  | .next _ => true
  | .fault _ => false
  | .refused _ => false

theorem next_after {r : Result} (h : goesOn r = true) : r = .next (after r) := by
  cases r with
  | next t => rfl
  | fault f => simp [goesOn] at h
  | refused f => simp [goesOn] at h

/-- The step ends the command with this response. -/
def answers (r : Result) (status : BitVec 4) (data : Data) : Bool :=
  match r with
  | .next t => !t.self.busy && t.self.rsp = ⟨status, data⟩
  | .fault _ => false
  | .refused _ => false

/-- The step leaves the byte `v` stored for pin `i`, and goes to row `p`. -/
def stores (r : Result) (i : Nat) (v : Byte) (p : BitVec 4) : Bool :=
  match r with
  | .next t => t.gpioStored i = v && t.self.phase = p
  | .fault _ => false
  | .refused _ => false

/-- L3. -/
theorem test_req_conflict : answers (step (locked 0x0817 2 0x65)) 4 0x65 = true := by decide
/-- L2: bit 7 is saved as read. -/
theorem test_req_saves :
    answers (step (locked 0x0817 2 0xA8)) 0 0xA8 = true ∧ (after (step (locked 0x0817 2 0xA8))).saved 23 = 0xA8 ∧
      (after (step (locked 0x0817 2 0xA8))).valid 23 = true ∧ (after (step (locked 0x0817 2 0xA8))).lock = none := by decide +kernel
/-- L8: the saved byte is written, the register drops bit 7. -/
theorem test_free_restores : stores (step (requested 23 0xA8 (locked 0x1017 1 0))) 23 0x28 2 = true := by decide +kernel
/-- L7. -/
theorem test_free_not_requested : answers (step (locked 0x1017 1 0)) 8 0 = true := by decide
/-- P2, step 8. -/
theorem test_getl_pad_high :
    answers (step (withByte 40 0x08
      { scene (running 0x1828 0) with
        inputs := { Inputs.undriven with pads := Vector.replicate 256 (some true) } })) 0 1 = true := by decide
/-- E15. -/
theorem test_getl_not_ready : answers (step (unbuilt (scene (running 0x1817 0)))) 7 0 = true := by decide
/-- P1, step 3. -/
theorem test_getd_input : answers (step (withByte 23 0x28 (scene (running 0x2017 0)))) 0 1 = true := by decide
/-- L18. -/
theorem test_setl_low : stores (step (locked 0x2817 2 0x48)) 23 0x08 3 = true := by decide
/-- L20: silent drop. -/
theorem test_setl_dropped :
    answers (step (withByte 23 0x28 (locked 0x2917 2 0x28))) 0 0 = true ∧
      (after (step (withByte 23 0x28 (locked 0x2917 2 0x28)))).gpioStored 23 = 0x28 := by decide
/-- L9. -/
theorem test_dout_refused : answers (step (locked 0x3117 3 0x28)) 5 0x4828 = true := by decide
/-- L12. -/
theorem test_dout_written : stores (step (overridden (locked 0x3017 3 0x62))) 23 0x02 4 = true := by decide
/-- L17. -/
theorem test_din_refused : answers (step (locked 0x3817 2 0xC8)) 5 0xE8C8 = true := by decide
/-- L15. -/
theorem test_din_written : stores (step (overridden (locked 0x3817 2 0x48))) 23 0x68 3 = true := by decide
/-- G6. -/
theorem test_diag_record :
    answers (step { scene { running 0x4005 2 with b := 0x65 } with iomux := [(5, 0x03)] }) 0 0x000003650005D405 = true := by decide
/-- G12. -/
theorem test_diag_skipped : answers (step (scene (running 0x40FF 0))) 0 0x2FF = true := by decide
/-- G7, as DUMP's record of pin 119. -/
theorem test_dump_record :
    (after (step { scene { running 0x4800 3 with k := 119, b := 0xFF } with iomux := [(119, 0xFF)] })).self.out =
      [0x0000FFFF017FEC77] := by decide
/-- G18, the last row. -/
theorem test_dump_count : answers (step (scene { running 0x4800 1 with k := 256, n := 184 })) 0 184 = true := by decide
/-- B12: the 33-bit base of the GPIO region, which the arbiter cannot grant. -/
theorem test_init_denied : answers (step { scene (running 0x5000 4) with constructed := false, gpioBase := 0x1000000FC }) 3
    0x1000000FC = true := by decide
/-- B8: only bits 1:0 are cleared. -/
theorem test_init_bases :
    (after (step { unbuilt (scene (running 0x5000 3)) with locRaw := 0xF0001005 })).gpioBase = 0xF0001104 ∧
      (after (step { unbuilt (scene (running 0x5000 3)) with locRaw := 0xF0001005 })).iomuxBase = 0xF0001D04 := by decide
/-- P3, step 9. -/
theorem test_teardown_restores :
    stores (step { requested 80 0x08 (locked 0x5800 1 0) with
      constructed := false
      ctxs := [{ running 0x5800 1 with k := 80 }, Context.idle] }) 80 0x08 1 = true := by decide +kernel
/-- P5, step 5: the IOMUX region is released before the GPIO region. -/
theorem test_teardown_order :
    (after (step { scene (running 0x5800 3) with constructed := false })).iomuxRsv = false ∧
      (after (step { scene (running 0x5800 3) with constructed := false })).gpioRsv = true := by decide
/-- The rows of section 2.1 for `0x62`, `0x10`, `0xFF`, `0x28`, `0x9D`, `0x9D` and `0x48`. -/
theorem test_down : answers (step (scene (running 0x8062 0))) 0 2 = true := by decide
theorem test_dpull : answers (step (scene (running 0x8810 0))) 0 3 = true := by decide
theorem test_dmux : answers (step (scene (running 0x90FF 0))) 0 3 = true := by decide
theorem test_isout : answers (step (scene (running 0x9828 0))) 0 0 = true := by decide
theorem test_rlvl : answers (step (scene (running 0xA09D 0))) 0 1 = true := by decide
theorem test_sout : answers (step (scene (running 0xA99D 0))) 0 0xDD = true := by decide
theorem test_sin : answers (step (scene (running 0xB048 0))) 0 0x68 = true := by decide
/-- E10. -/
theorem test_illegal_word : answers (step (scene (running 0x0A17 0))) 6 0x0A17 = true := by decide
/-- R240: the strap is sampled at reset. -/
theorem test_reset_samples_strap :
    (after (step { scene (running 0x0817 0) with
      agenda := [.reset]
      inputs := { Inputs.undriven with cfgUnsafe := true } })).override = true := by decide
/-- R95: DOUT as the first command after reset is answered NOT_READY, since no controller exists. -/
theorem test_placed_word : answers (step (State.reset.withFetchWord 16 0x3117)) 7 0 = true := by decide

/-! ## Witnesses: states that meet the hypotheses of the statements, clause by clause -/

theorem atRow_scene (x : Context) : AtRow (scene x) x.phase := ⟨Nat.zero_lt_succ 1, rfl⟩

theorem atRow_locked (w : Word) (p : BitVec 4) (b : Byte) : AtRow (locked w p b) p := ⟨Nat.zero_lt_succ 1, rfl⟩

theorem accepted_scene (w : Word) : Accepted (scene (running w 0)) := ⟨Nat.zero_lt_succ 1, rfl, rfl⟩

theorem ready_scene (w : Word) : AcceptedReady (scene (running w 0)) := ⟨accepted_scene w, rfl, rfl⟩

/-- The state with the lock held by the other context. -/
def heldByOther (s : State) : State := { s with lock := some 1 }

/-- Another placement of the fields: `OUT` 0, `OE_B` 1, `IN` 2, pull 4:3, ownership 6:5, sticky 7, mux 7:6. -/
def otherLayout : Layout :=
  { ownLsb := 5, stickyBit := 7, pullLsb := 3, oebBit := 1, outBit := 0, inBit := 2, muxLsb := 6 }

theorem test_witness_DecodeEncodeAgree : decode 0xB6FF = .error (.reservedBits 3) ∧ decode 0xB0FF = .ok (.sin 0xFF) := by decide

theorem test_witness_OpcodeRowSelectsDecoded :
    rowOf .dump ∈ opcodeTable ∧ (rowOf .dump).selects 0x4800 = true ∧ decode 0x4800 = .ok .dump := by decide

theorem test_witness_IllegalWordsAnswered :
    (scene (running 0x5001 0)).cur < (scene (running 0x5001 0)).ctxs.length ∧
      decode (scene (running 0x5001 0)).self.cmd = .error (.strayArg 1) := by decide

/-- The state whose agenda is empty, with context 1 next in the cyclic order. -/
def cyclic : State :=
  { scene Context.idle with agenda := [], ctxs := [Context.idle, running 0x8001 0] }

theorem test_witness_StepRunsDecodedInstruction :
    ((scene (running 0x8001 0)).agenda = [.run 0] ∧ ((scene (running 0x8001 0)).ctx 0).busy = true ∧
      decode ((scene (running 0x8001 0)).ctx 0).cmd = .ok (.down 1)) ∧
    1 < cyclic.ctxs.length ∧ (cyclic.ctx 1).busy = true ∧ decode (cyclic.ctx 1).cmd = .ok (.down 1) ∧ cyclic.agenda = [] ∧
      cyclic.nextTurn = 1 := by decide

theorem test_witness_PlacedWordRunsNext : 0 < State.reset.ctxs.length ∧ decode 0x3117 = .ok (.dout 23 true) := by decide

theorem test_witness_IdleContextIssues :
    (scene Context.idle).agenda = [.run 0] ∧ ((scene Context.idle).ctx 0).busy = false ∧
      (scene Context.idle).callers.getD 0 [] = [] ∧
      ({ scene Context.idle with callers := [[0x5000], []] } : State).callers.getD 0 [] = 0x5000 :: [] ∧
      ((scene (running 0x8001 0)).ctx 0).busy = true ∧
      step (scene (running 0x8001 0)) = .next (after (step (scene (running 0x8001 0)))) := by
  exact ⟨rfl, rfl, rfl, rfl, rfl, rfl⟩

theorem test_witness_DispatchChecksInOrder :
    (AtRow (scene (running 0x0A17 0)) 0 ∧ decode (scene (running 0x0A17 0)).self.cmd = .error (.reservedBits 1)) ∧
    (AtRow (scene (running 0x5000 0)) 0 ∧ decode (scene (running 0x5000 0)).self.cmd = .ok .init ∧
      (scene (running 0x5000 0)).constructed = true) ∧
    (AtRow (unbuilt (scene (running 0x5800 0))) 0 ∧ decode (unbuilt (scene (running 0x5800 0))).self.cmd = .ok .teardown ∧
      (unbuilt (scene (running 0x5800 0))).constructed = false) ∧
    AtRow (scene (running 0x8001 0)) 0 ∧ decode (scene (running 0x8001 0)).self.cmd = .ok (.down 1) :=
  ⟨⟨atRow_scene _, by decide⟩, ⟨atRow_scene _, by decide, rfl⟩, ⟨⟨by decide, rfl⟩, by decide, rfl⟩, atRow_scene _, by decide⟩

/-- OwnershipDecoded, PullDecoded, MuxDecoded, EnableAndLevelRead, OutputSetInByte, InputSetInByte. -/
theorem test_witness_codec :
    AtRow (scene (running 0x8001 0)) 0 ∧ (scene (running 0x8001 0)).params.layout = Layout.default ∧
      (scene (running 0x8001 0)).params.ownCode = Params.default.ownCode ∧
      (scene (running 0x8001 0)).params.pullCode = Params.default.pullCode :=
  ⟨atRow_scene _, rfl, rfl, rfl⟩

theorem test_witness_CodecLawsForAnyLayout :
    otherLayout.wellFormed = true ∧
      (0x2F : Byte).extractLsb' otherLayout.ownLsb 2 = (0xB0 : Byte).extractLsb' otherLayout.ownLsb 2 ∧
      (0 : Nat) ≠ otherLayout.oebBit ∧ (7 : Nat) ≠ otherLayout.oebBit ∧ (7 : Nat) ≠ otherLayout.outBit := by decide

/-- The same with `PadLoopback` true. -/
def loopback (s : State) : State := { s with params := { s.params with padLoopback := true } }

/-- Among the clauses: under `PadLoopback` an input pin whose `OUT` is 1 still samples its pad, which is low. -/
theorem test_witness_ReadSamplesThePad :
    ((255 : Nat) < 256 ∧ (scene Context.idle).params.layout.inBit < 8 ∧ (scene Context.idle).params.padLoopback = false ∧
      (scene Context.idle).inputs.pads[255]? = some (some false)) ∧
    (loopback (scene Context.idle)).params.padLoopback = true ∧
    (((loopback (withByte 255 0x60 (scene Context.idle))).gpio.read 255).getLsbD Layout.default.oebBit = true ∧
      (loopback (withByte 255 0x60 (scene Context.idle))).inputs.pads[255]? = some (some false) ∧
      ((loopback (withByte 255 0x60 (scene Context.idle))).gpioSampled 255).getLsbD Layout.default.inBit = false) ∧
    ((scene Context.idle).gpio.read 255).getLsbD (scene Context.idle).params.layout.oebBit = false ∧
    (scene Context.idle).banksApart ∧
    ∀ i, i < 256 → (0xF0000200 : Nat) ≠ (scene Context.idle).gpioBase.toNat + i ∧
      (0xF0000200 : Nat) ≠ (scene Context.idle).iomuxBase.toNat + i := by
  refine ⟨by decide, rfl, by decide, rfl, .inl (by decide), fun i h => ?_⟩
  have hg : (scene Context.idle).gpioBase.toNat = 0xF0000100 := rfl
  have hm : (scene Context.idle).iomuxBase.toNat = 0xF0000D00 := rfl
  omega

theorem test_witness_WriteStoresOneGpioByte :
    (255 : Nat) < 256 ∧ (7 : Nat) ≠ otherLayout.inBit ∧
      (0xF00001FF : Nat) ≠ (scene Context.idle).gpioBase.toNat + 0 ∧ (scene Context.idle).gpio.wf ∧
      ∀ i, i < 256 → (0xF0000D00 : Nat) ≠ (scene Context.idle).gpioBase.toNat + i := by
  refine ⟨by decide, by decide, by decide, by decide, fun i h => ?_⟩
  have hg : (scene Context.idle).gpioBase.toNat = 0xF0000100 := rfl
  omega

theorem test_witness_LockAndRaise :
    (scene Context.idle).lock = none ∧ (heldByOther (scene Context.idle)).lock = some 1 ∧
      (locked 0x0817 2 0).lock = some (locked 0x0817 2 0).cur ∧
      (heldByOther (scene Context.idle)).lock ≠ some (heldByOther (scene Context.idle)).cur := by decide

theorem test_witness_ReqRows :
    (AtRow (scene (running 0x0817 0)) 0 ∧ (scene (running 0x0817 0)).constructed = true ∧
      (scene (running 0x0817 0)).lock = none) ∧
    AtRow (locked 0x0817 1 0) 1 ∧
    (AtRow (locked 0x0817 2 0x65) 2 ∧ (locked 0x0817 2 0x65).lock = some (locked 0x0817 2 0x65).cur ∧
      decodeOwnership (locked 0x0817 2 0x65).params (locked 0x0817 2 0x65).self.b = .embeddedController) ∧
    decodeOwnership (locked 0x0817 2 0x03).params (locked 0x0817 2 0x03).self.b ≠ .embeddedController :=
  ⟨⟨atRow_scene _, rfl, rfl⟩, atRow_locked _ _ _, ⟨atRow_locked _ _ _, rfl, by decide⟩, by decide⟩

theorem test_witness_FreeRows :
    (AtRow (locked 0x1017 1 0) 1 ∧ (locked 0x1017 1 0).lock = some (locked 0x1017 1 0).cur ∧
      (locked 0x1017 1 0).valid 23 = false) ∧
    (AtRow (requested 23 0x28 (locked 0x1017 1 0)) 1 ∧ (requested 23 0x28 (locked 0x1017 1 0)).valid 23 = true) ∧
    AtRow (locked 0x1017 2 0) 2 :=
  ⟨⟨atRow_locked _ _ _, rfl, by decide⟩, ⟨⟨by decide, rfl⟩, by decide +kernel⟩, atRow_locked _ _ _⟩

theorem test_witness_LevelAndDirectionRows :
    AtRow (scene (running 0x1817 0)) 0 ∧ (scene (running 0x1817 0)).constructed = true := ⟨atRow_scene _, rfl⟩

theorem test_witness_SetlRows :
    (AtRow (locked 0x2917 2 0x48) 2 ∧ isOutputEnabled Params.default (locked 0x2917 2 0x48).self.b = true) ∧
    (AtRow (overridden (locked 0x2917 2 0x28)) 2 ∧ (overridden (locked 0x2917 2 0x28)).override = true) ∧
    (AtRow (locked 0x2917 2 0x28) 2 ∧ isOutputEnabled Params.default (locked 0x2917 2 0x28).self.b = false ∧
      (locked 0x2917 2 0x28).override = false ∧ (locked 0x2917 2 0x28).lock = some (locked 0x2917 2 0x28).cur) ∧
    AtRow (locked 0x2917 3 0) 3 :=
  ⟨⟨atRow_locked _ _ _, by decide⟩, ⟨⟨by decide, rfl⟩, rfl⟩, ⟨atRow_locked _ _ _, by decide, rfl, rfl⟩, atRow_locked _ _ _⟩

theorem test_witness_DoutRows :
    (isOutputEnabled Params.default ((withByte 23 0x08 (scene (running 0x3117 0))).gpioSampled 23) = true ∧
      isOutputEnabled Params.default ((withByte 23 0x28 (scene (running 0x3117 0))).gpioSampled 23) = false) ∧
    AtRow (scene (running 0x3117 1)) 1 ∧ AtRow (locked 0x3117 2 0) 2 ∧
    (AtRow (locked 0x3117 3 0x48) 3 ∧
      setOutput Params.default (locked 0x3117 3 0x48).self.b true = (locked 0x3117 3 0x48).self.b) ∧
    (AtRow (locked 0x3117 3 0x28) 3 ∧
      setOutput Params.default (locked 0x3117 3 0x28).self.b true ≠ (locked 0x3117 3 0x28).self.b ∧
      (locked 0x3117 3 0x28).override = false ∧ (overridden (locked 0x3117 3 0x28)).override = true) ∧
    AtRow (locked 0x3117 4 0) 4 :=
  ⟨by decide, atRow_scene _, atRow_locked _ _ _, ⟨atRow_locked _ _ _, by decide⟩,
    ⟨atRow_locked _ _ _, by decide, rfl, rfl⟩, atRow_locked _ _ _⟩

theorem test_witness_DinRows :
    (AtRow (locked 0x3817 2 0x28) 2 ∧ setInput Params.default (locked 0x3817 2 0x28).self.b = (locked 0x3817 2 0x28).self.b) ∧
    (AtRow (locked 0x3817 2 0x48) 2 ∧
      setInput Params.default (locked 0x3817 2 0x48).self.b ≠ (locked 0x3817 2 0x48).self.b ∧
      (locked 0x3817 2 0x48).override = false ∧ (overridden (locked 0x3817 2 0x48)).override = true) ∧
    AtRow (locked 0x3817 3 0) 3 :=
  ⟨⟨atRow_locked _ _ _, by decide⟩, ⟨atRow_locked _ _ _, by decide, rfl, rfl⟩, atRow_locked _ _ _⟩

theorem test_witness_DiagRows :
    (scene (running 0x4044 0)).skip 68 = true ∧ (scene (running 0x4043 0)).skip 67 = false ∧
      AtRow (scene (running 0x4043 1)) 1 ∧ AtRow (scene (running 0x4043 2)) 2 ∧ (scene (running 0x4043 2)).banksApart :=
  ⟨by decide, by decide, atRow_scene _, atRow_scene _, .inl (by decide)⟩

/-- DUMP at pin `k` of its loop. -/
def dumping (p : BitVec 4) (k : BitVec 9) : State := scene { running 0x4800 p with k := k }

theorem test_witness_DumpRows :
    AtRow (dumping 0 0) 0 ∧ (AtRow (dumping 1 256) 1 ∧ (dumping 1 256).self.k = 256) ∧
      ((dumping 1 255).self.k ≠ 256 ∧ (dumping 1 255).skip 255 = true ∧ (dumping 1 228).skip 228 = false) ∧
      AtRow (dumping 2 255) 2 ∧ (dumping 2 255).self.k.toNat < 256 ∧ AtRow (dumping 3 255) 3 :=
  ⟨atRow_scene _, ⟨atRow_scene _, rfl⟩, by decide, atRow_scene _, by decide, atRow_scene _⟩

/-- INIT at row `p`, with `raw` read. -/
def discovering (p : BitVec 4) (raw : BitVec 32) : State := { unbuilt (scene (running 0x5000 p)) with locRaw := raw }

theorem atRow_discovering (p : BitVec 4) (raw : BitVec 32) : AtRow (discovering p raw) p := ⟨Nat.zero_lt_succ 1, rfl⟩

/-- The same with a gated chip of revision `rev` (B16, B17). -/
def gated (rev : Byte) (s : State) : State := { s with inputs := { s.inputs with chipGated := true, chipRev := rev } }

/-- The same with an arbiter that denies. -/
def denying (s : State) : State := { s with inputs := { s.inputs with arbiter := some false } }

theorem test_witness_InitRows :
    (AtRow (gated 0x3F (discovering 0 0)) 0 ∧ (gated 0x3F (discovering 0 0)).inputs.chipRev.toNat < 0x40 ∧
      0x40 ≤ (gated 0x40 (discovering 0 0)).inputs.chipRev.toNat) ∧
    AtRow (discovering 1 0) 1 ∧ (AtRow (discovering 2 0) 2 ∧ (discovering 2 0).self.k.toNat < 4) ∧
    (AtRow (discovering 3 0) 3 ∧ (discovering 3 0).lock ≠ some (discovering 3 0).cur) ∧
    ((discovering 3 2).locRaw ≠ 0 ∧ (discovering 3 2).locRaw ≠ 0xFFFFFFFF ∧ (discovering 3 2).locRaw.toNat % 4 ≠ 1) ∧
    ((discovering 3 1).locRaw ≠ 0 ∧ (discovering 3 1).locRaw ≠ 0xFFFFFFFF ∧ (discovering 3 1).locRaw.toNat % 4 = 1) ∧
    (AtRow (discovering 4 1) 4 ∧ (discovering 4 1).arbiterGrants 0xFFFFFF00 0x100 = true ∧
      (discovering 4 1).arbiterGrants 0xFFFFFF01 0x100 = false ∧
      (denying (discovering 4 1)).arbiterGrants 0x100 0x100 = false) ∧
    AtRow (discovering 5 1) 5 ∧ AtRow (discovering 6 1) 6 ∧ AtRow (discovering 7 1) 7 :=
  ⟨⟨⟨by decide, rfl⟩, by decide, by decide⟩, atRow_discovering _ _, ⟨atRow_discovering _ _, by decide⟩,
    ⟨atRow_discovering _ _, by decide⟩, by decide, by decide, ⟨atRow_discovering _ _, by decide⟩, atRow_discovering _ _,
    atRow_discovering _ _, atRow_discovering _ _⟩

/-- TEARDOWN's loop at pin `k`, inside its locked section. -/
def tearing (k : BitVec 9) : State :=
  { scene { running 0x5800 1 with k := k } with lock := some 0, constructed := false }

theorem test_witness_TeardownRows :
    (AtRow (tearing 256) 1 ∧ (tearing 256).self.k = 256) ∧
    (AtRow (tearing 255) 1 ∧ (tearing 255).self.k.toNat < 256 ∧ (tearing 255).valid 255 = false ∧
      (requested 255 0x08 (tearing 255)).valid 255 = true) ∧
    AtRow (locked 0x5800 2 0) 2 ∧ AtRow (scene (running 0x5800 3)) 3 ∧ AtRow (scene (running 0x5800 4)) 4 :=
  ⟨⟨⟨by decide, rfl⟩, rfl⟩, ⟨⟨by decide, rfl⟩, by decide, by decide, by decide +kernel⟩, atRow_locked _ _ _, atRow_scene _,
    atRow_scene _⟩

theorem test_witness_HeldAndStuckRows :
    (heldByOther (scene (running 0x0817 0))).lock ≠ none ∧ (heldByOther (scene (running 0x0817 0))).constructed = true ∧
      lastPhase .init < (scene (running 0x5000 8)).self.phase.toNat ∧
      (scene (running 0x0817 2)).lock ≠ some (scene (running 0x0817 2)).cur ∧ (scene (running 0x0817 2)).self.phase = 2 ∧
      decodeOwnership Params.default (scene (running 0x0817 2)).self.b ≠ .embeddedController ∧
      isOutputEnabled Params.default 0x28 = false ∧ setOutput Params.default 0x48 true = 0x48 ∧
      setInput Params.default 0x28 = 0x28 := by decide

theorem test_witness_RecordFields :
    (119 : Nat) < 256 ∧ Params.default.layout = Layout.default ∧
      (record Params.default 119 false 0xFF 0xFF).extractLsb' 20 5 = 23 := by decide

theorem test_witness_GapsAndEvents :
    [67, 68, 95, 96, 119, 120, 127, 128, 150, 151, 159, 160, 228, 229, 255].map inGap =
      [false, true, true, false, false, true, true, false, false, true, true, false, false, true, true] ∧
    (gpeIndex 96).toNat = 0 ∧ (gpeIndex 119).toNat = 23 := by decide

/-- ReqAlone, FreeAlone, SetlAlone, DoutAlone, DinAlone: the state, and a byte for each clause. -/
theorem test_witness_alone :
    AcceptedReady (scene (running 0x0817 0)) ∧ Layout.default.wellFormed = true ∧
      ((withByte 23 0x65 (scene (running 0x0817 0))).gpioSampled 23).toNat % 4 = 1 ∧
      ((withByte 23 0x28 (scene (running 0x0817 0))).gpioSampled 23).toNat % 4 ≠ 1 ∧
      (requested 23 0x28 (scene (running 0x1017 0))).valid 23 = true ∧ (scene (running 0x1017 0)).valid 23 = false ∧
      isOutputEnabled Params.default ((withByte 23 0x48 (scene (running 0x3117 0))).gpioStored 23) = true ∧
      isOutputEnabled Params.default ((withByte 23 0x28 (scene (running 0x3117 0))).gpioStored 23) = false ∧
      (scene (running 0x3117 0)).override = false ∧ (overridden (scene (running 0x3117 0))).override = true :=
  ⟨ready_scene _, by decide, by decide, by decide, by decide +kernel, by decide, by decide, by decide, rfl, rfl⟩

/-- A scene meets the invariant when the lock is context 0's exactly if `x` is in a locked section. -/
theorem inv_scene (x : Context) (l : Option Nat) (hl : l = if x.inSection then some 0 else none) (ht : x.onTable = true)
    (hs : x.rsp.status.toNat ≤ 10) : Inv { scene x with lock := l } where
  curExists := Nat.zero_lt_succ 1
  lockHeld := fun c => by
    subst hl
    match c with
    | 0 =>
      change (if x.inSection then some 0 else none) = some 0 ↔ 0 < 2 ∧ x.inSection = true
      cases x.inSection <;> decide
    | 1 =>
      change (if x.inSection then some 0 else none) = some 1 ↔ 1 < 2 ∧ Context.idle.inSection = true
      cases x.inSection <;> decide
    | c + 2 =>
      change (if x.inSection then some 0 else none) = some (c + 2) ↔ c + 2 < 2 ∧ _
      cases x.inSection <;> simp
  onTable := fun c _ =>
    match c with
    | 0 => ht
    | 1 => rfl
    | _ + 2 => rfl
  statusDriven := fun c _ =>
    match c with
    | 0 => hs
    | 1 => Nat.zero_le 10
    | _ + 2 => Nat.zero_le 10
  gpioCanonical := ⟨.nil, nofun⟩
  iomuxCanonical := ⟨.nil, nofun⟩
  pmregCanonical := by
    change Memory.wf [(0x24, 0x01), (0x27, 0xF0)]
    decide
  gpioInFile := nofun
  iomuxInFile := nofun
  pmregInFile := by
    change ∀ e ∈ ([(0x24, 0x01), (0x27, 0xF0)] : Memory), e.1 < 256
    decide
  inputNotStored := nofun

/-- Context 0 inside the locked section of REQ, context 1 idle. -/
theorem inv_locked : Inv (locked 0x0817 1 0) := inv_scene _ _ (by decide) (by decide) (by decide)

/-- REQ has just been accepted. -/
theorem inv_accepted : Inv (scene (running 0x0817 0)) := inv_scene _ none (by decide) (by decide) (by decide)

theorem test_witness_FreeUndoesReq :
    Inv (scene (running 0x0817 0)) ∧ AcceptedReady (scene (running 0x0817 0)) ∧
      runAlone 3 (.req 23) (scene (running 0x0817 0)) = .next (after (runAlone 3 (.req 23) (scene (running 0x0817 0)))) ∧
      (after (runAlone 3 (.req 23) (scene (running 0x0817 0)))).self.rsp.status = 0 ∧
      AcceptedReady (requested 23 0 (scene (running 0x1017 0))) ∧ (requested 23 0 (scene (running 0x1017 0))).valid 23 = true ∧
      (requested 23 0 (scene (running 0x1017 0))).saved 23 = (after (runAlone 3 (.req 23) (scene (running 0x0817 0)))).saved 23 :=
  ⟨inv_accepted, ready_scene _, next_after (by decide), by decide +kernel, ⟨⟨by decide, rfl, rfl⟩, rfl, rfl⟩, by decide +kernel,
    by decide +kernel⟩

/-- The state before INIT, with the four base-address registers `b0 .. b3`. -/
def starting (b0 b1 b2 b3 : Byte) : State :=
  { discovering 0 0 with pmreg := Memory.write (Memory.write (Memory.write (Memory.write [] 0x24 b0) 0x25 b1) 0x26 b2) 0x27 b3 }

/-- B7; and the highest base at which both regions end at 2^32. -/
theorem test_witness_InitAloneConstructs :
    Accepted (starting 0x01 0x00 0xD8 0xFE) ∧ Params.default.wellFormed = true ∧
      (starting 0x01 0x00 0xD8 0xFE).inputs.chipMatch = true ∧
      (starting 0x01 0x00 0xD8 0xFE).pmreg.read 0x26 = 0xD8 ∧
      (starting 0x01 0x00 0xD8 0xFE).arbiterGrants 0xFED80100 0x100 = true ∧
      (starting 0x01 0x00 0xD8 0xFE).drew.arbiterGrants 0xFED80D00 0x100 = true ∧ (0xFFFFF201 : BitVec 32).toNat % 4 = 1 ∧
      (starting 0x01 0xF2 0xFF 0xFF).drew.arbiterGrants
        ((0xFFFFF201 : BitVec 32).toNat - 1 + Params.default.iomuxOffset) 0x100 = true :=
  ⟨⟨by decide, rfl, rfl⟩, by decide, rfl, by decide, by decide, by decide, by decide, by decide⟩

/-- B2, B4, B12, B16, an arbiter that denies, and a base at which only the IOMUX region ends above 2^32. -/
theorem test_witness_InitAloneFails :
    Accepted (starting 0xFF 0xFF 0xFF 0xFF) ∧ (starting 0xFF 0xFF 0xFF 0xFF).gpioRsv = false ∧
      (starting 0xFF 0xFF 0xFF 0xFF).iomuxRsv = false ∧
      (starting 0xFF 0xFF 0xFF 0xFF).lock ≠ some (starting 0xFF 0xFF 0xFF 0xFF).cur ∧
      chipSupported (gated 0x3F (starting 0x01 0x00 0x00 0xF0)).inputs = false ∧
      chipSupported (starting 0x01 0x00 0x00 0xF0).inputs = true ∧
      (0xF0000002 : BitVec 32).toNat % 4 ≠ 1 ∧
      (denying (starting 0x01 0x00 0x00 0xF0)).arbiterGrants 0xF0000100 0x100 = false ∧
      (starting 0xFD 0xFF 0xFF 0xFF).arbiterGrants
        ((0xFFFFFFFD : BitVec 32).toNat - 1 + Params.default.gpioOffset) 0x100 = false ∧
      (starting 0x05 0xF2 0xFF 0xFF).arbiterGrants
        ((0xFFFFF205 : BitVec 32).toNat - 1 + Params.default.gpioOffset) 0x100 = true ∧
      (starting 0x05 0xF2 0xFF 0xFF).drew.arbiterGrants
        ((0xFFFFF205 : BitVec 32).toNat - 1 + Params.default.iomuxOffset) 0x100 = false :=
  ⟨⟨by decide, rfl, rfl⟩, rfl, rfl, by decide, by decide, by decide, by decide, by decide, by decide, by decide, by decide⟩

theorem test_witness_TeardownAloneRestores : AcceptedReady (requested 255 0x08 (scene (running 0x5800 0))) :=
  ⟨⟨by decide, rfl, rfl⟩, rfl, rfl⟩

theorem test_witness_DumpAloneReports :
    Accepted (scene (running 0x4800 0)) ∧ (scene (running 0x4800 0)).constructed = true ∧
      (scene (running 0x4800 0)).banksApart ∧ (scene (running 0x4800 0)).tableEmpty :=
  ⟨accepted_scene _, rfl, .inl (by decide), fun j => by
    simp only [State.valid, scene, State.reset, running, Vector.getElem?_replicate]
    split <;> rfl⟩

theorem test_witness_CommandsRespondInBound : Accepted (scene (running 0x5000 0)) ∧ (scene (running 0x5000 0)).lock = none :=
  ⟨accepted_scene _, rfl⟩

/-- L7, from its acceptance; and its last row with an earlier one. -/
theorem test_witness_FailureNeverWrites :
    Accepted (scene (running 0x1017 0)) ∧
      runAlone 2 (.free 23) (scene (running 0x1017 0)) = .next (after (runAlone 2 (.free 23) (scene (running 0x1017 0)))) ∧
      (after (runAlone 2 (.free 23) (scene (running 0x1017 0)))).self.busy = false ∧
      (after (runAlone 2 (.free 23) (scene (running 0x1017 0)))).self.rsp.status ≠ 0 ∧
      ((locked 0x1017 1 0).self.busy = true ∧ exec (.free 23) (locked 0x1017 1 0) = .next (after (exec (.free 23) (locked 0x1017 1 0))) ∧
        (after (exec (.free 23) (locked 0x1017 1 0))).self.busy = false ∧
        (after (exec (.free 23) (locked 0x1017 1 0))).self.rsp.status ≠ 0) ∧
      (scene (running 0x1017 0)).self.phase.toNat < (locked 0x1017 1 0).self.phase.toNat ∧
      exec (.free 23) (scene (running 0x1017 0)) = .next (after (exec (.free 23) (scene (running 0x1017 0)))) :=
  ⟨accepted_scene _, next_after (by decide), by decide, by decide, ⟨rfl, next_after (by decide), by decide, by decide⟩, by decide,
    next_after (by decide)⟩

/-- ExecKeepsOtherContexts, DeviceFilesNeverWritten, GpioStoresOnlyAtThePin, TableWritersOnly, LifecycleRegistersOnly: micro-steps
that have a next state, one that stores, one that writes the table, one that frees an entry, one that moves the bases. -/
theorem test_witness_frames :
    (exec (.setl 23 false) (locked 0x2817 2 0x48) = .next (after (exec (.setl 23 false) (locked 0x2817 2 0x48))) ∧
      storedPin (locked 0x2817 2 0x48) (.setl 23 false) = some 23) ∧
    (exec (.req 23) (locked 0x0817 2 0x28) = .next (after (exec (.req 23) (locked 0x0817 2 0x28))) ∧
      (after (exec (.req 23) (locked 0x0817 2 0x28))).valid 23 ≠ (locked 0x0817 2 0x28).valid 23 ∧
      (after (exec (.req 23) (locked 0x0817 2 0x28))).saved 23 ≠ (locked 0x0817 2 0x28).saved 23) ∧
    (exec (.free 23) (requested 23 0x28 (locked 0x1017 2 0)) =
        .next (after (exec (.free 23) (requested 23 0x28 (locked 0x1017 2 0)))) ∧
      (after (exec (.free 23) (requested 23 0x28 (locked 0x1017 2 0)))).valid 23 ≠
        (requested 23 0x28 (locked 0x1017 2 0)).valid 23) ∧
    exec .init (discovering 3 1) = .next (after (exec .init (discovering 3 1))) :=
  ⟨⟨next_after (by decide), rfl⟩, ⟨next_after (by decide), by decide +kernel, by decide +kernel⟩,
    ⟨next_after (by decide), by decide +kernel⟩, next_after (by decide)⟩

theorem test_witness_LockFreeCommandsIgnoreTheLock :
    exec (.dout 23 true) (scene (running 0x3117 0)) = .next (after (exec (.dout 23 true) (scene (running 0x3117 0)))) ∧
      (scene (running 0x3117 0)).self.phase = 0 := ⟨next_after (by decide), rfl⟩

theorem test_witness_SafeModeKeepsDirections :
    ((locked 0x3117 3 0x28).override = false ∧
      exec (.dout 23 true) (locked 0x3117 3 0x28) = .next (after (exec (.dout 23 true) (locked 0x3117 3 0x28))) ∧
      exec (.din 23) (locked 0x3817 2 0x48) = .next (after (exec (.din 23) (locked 0x3817 2 0x48))) ∧
      exec (.setl 23 true) (locked 0x2917 2 0x08) = .next (after (exec (.setl 23 true) (locked 0x2917 2 0x08)))) ∧
    Accepted (scene (running 0x3117 0)) ∧ (scene (running 0x3117 0)).override = false ∧
      runAlone 4 (.setl 23 true) (scene (running 0x2917 0)) =
        .next (after (runAlone 4 (.setl 23 true) (scene (running 0x2917 0)))) ∧
      runAlone 5 (.dout 23 true) (scene (running 0x3117 0)) =
        .next (after (runAlone 5 (.dout 23 true) (scene (running 0x3117 0)))) ∧
      runAlone 4 (.din 23) (scene (running 0x3817 0)) =
        .next (after (runAlone 4 (.din 23) (scene (running 0x3817 0)))) :=
  ⟨⟨rfl, next_after (by decide), next_after (by decide), next_after (by decide)⟩, accepted_scene _, rfl, next_after (by decide),
    next_after (by decide), next_after (by decide)⟩

/-- Program P4. -/
def fastPathRace : State :=
  { overridden (withByte 23 0x08 (scene (running 0x3117 0))) with
    ctxs := [running 0x3117 0, running 0x3817 0]
    agenda := [.run 1, .run 1, .run 0, .run 1, .run 1] }

theorem test_witness_FastPathInsideLockedDin :
    2 ≤ fastPathRace.ctxs.length ∧ fastPathRace.constructed = true ∧ fastPathRace.override = true ∧ fastPathRace.lock = none ∧
      fastPathRace.params.layout.wellFormed = true ∧
      isOutputEnabled fastPathRace.params (fastPathRace.gpioStored 23) = true ∧ (fastPathRace.ctx 0).busy = true ∧
      (fastPathRace.ctx 0).cmd = encode (.dout 23 true) ∧ (fastPathRace.ctx 0).phase = 0 ∧ (fastPathRace.ctx 1).busy = true ∧
      (fastPathRace.ctx 1).cmd = encode (.din 23) ∧ (fastPathRace.ctx 1).phase = 0 := by decide

theorem test_witness_StepKeepsInvariant :
    Inv (locked 0x0817 1 0) ∧ step (locked 0x0817 1 0) = .next (after (step (locked 0x0817 1 0))) :=
  ⟨inv_locked, next_after (by decide)⟩

theorem test_witness_InvariantStateNeverFaults : Inv (locked 0x0817 1 0) := inv_locked

theorem test_witness_OneLockedSectionAtATime :
    (Inv (locked 0x0817 1 0) ∧ ((locked 0x0817 1 0).ctx 0).inSection = true) ∧
      Inv (scene Context.idle) ∧ (scene Context.idle).runOver :=
  ⟨⟨inv_locked, by decide⟩, inv_scene _ none (by decide) (by decide) (by decide),
    fun c => match c with
      | 0 => rfl
      | 1 => rfl
      | _ + 2 => rfl,
    fun c => match c with
      | 0 => rfl
      | 1 => rfl
      | _ + 2 => rfl⟩

/-- Context 1 of a scene is idle, and there is no other. -/
theorem scene_runs (x : Context) (c : Nat) (i : Instr) (h : ((scene x).ctx c).runs i) : c = 0 := by
  match c with
  | 0 => rfl
  | 1 => exact absurd h.1 nofun
  | _ + 2 => exact absurd h.1 nofun

theorem not_lifecycle : ¬(scene (running 0x0817 0)).lifecycleIn 0 := by
  rintro (h | h)
  · exact absurd h.2 (by decide)
  · exact absurd h.2 (by decide)

theorem orderly_after : Orderly (after (step (scene (running 0x0817 0)))) where
  oneLifecycle := fun c d h _ => by
    rcases h with h | h <;> (match c with
      | 0 => exact absurd h.2 (by decide)
      | 1 => exact absurd h.1 nofun
      | _ + 2 => exact absurd h.1 nofun)
  quietTeardown := fun c d h _ => by
    match c with
    | 0 => exact absurd h.2 (by decide)
    | 1 => exact absurd h.1 nofun
    | _ + 2 => exact absurd h.1 nofun

theorem test_witness_LifecycleInvariantKept :
    Inv (scene (running 0x0817 0)) ∧ Orderly (scene (running 0x0817 0)) ∧ LifecycleInv (scene (running 0x0817 0)) ∧
      step (scene (running 0x0817 0)) = .next (after (step (scene (running 0x0817 0)))) ∧
      Orderly (after (step (scene (running 0x0817 0)))) := by
  refine ⟨inv_accepted, ⟨fun c d h _ => ?_, fun c d h _ => ?_⟩, ⟨fun _ => ?_, fun c h => ?_, fun c h => ?_, nofun, fun _ _ _ _ _ _ => rfl⟩,
    next_after (by decide), orderly_after⟩
  · have hc : c = 0 := h.elim (scene_runs _ c _) (scene_runs _ c _)
    exact absurd (hc ▸ h) not_lifecycle
  · exact absurd (.inr (scene_runs _ c _ h ▸ h)) not_lifecycle
  · refine ⟨rfl, rfl, ?_, ?_⟩
    · change (0xF0000100 + 0x100 : Nat) ≤ 2 ^ 32
      decide
    · change (0xF0000D00 + 0x100 : Nat) ≤ 2 ^ 32
      decide
  · exact absurd (.inl (scene_runs _ c _ h ▸ h)) not_lifecycle
  · exact absurd (.inr (scene_runs _ c _ h ▸ h)) not_lifecycle

/-- ResetInput, ChipsetResetKeepsSticky, EnvironmentByDefault: each with its event next; a sticky byte and one that is not. -/
theorem test_witness_events :
    ({ scene Context.idle with agenda := [.reset] } : State).agenda = [.reset] ∧
      ((withByte 5 0x04 (scene Context.idle)).gpioStored 5).getLsbD (scene Context.idle).params.layout.stickyBit = true ∧
      ((withByte 5 0x04 (scene Context.idle)).gpioStored 255).getLsbD (scene Context.idle).params.layout.stickyBit = false ∧
      (scene Context.idle).params.envStep = Params.default.envStep := by decide

theorem test_witness_EmptyAgendaIsFair :
    1 < cyclic.ctxs.length ∧ cyclic.active 1 = true ∧ (0 : Nat) < cyclic.ctxs.length ∧
      cyclic.active ((cyclic.cur + 1 + 0) % cyclic.ctxs.length) = true := by decide

end Sys2Proof.Tests
end

section
/-! PROOFS of the lock-free commands (spec/20_memory.md R79). One law carries the statement: the row of a lock-free command, run
under another lock, answers what it answered before, with that lock in place of the old one. That the row leaves the lock as it is
follows: replace the lock by itself. -/

namespace Sys2Proof.Machine

/-! ### Replacing the lock in what a step answers -/

/-- The same answer under another lock: a next state has the lock replaced, a stop stays the stop it is. -/
def withLock (l : Option Nat) : Result → Result
  | .next t => .next (t.setLock l)
  | .fault f => .fault f
  | .refused r => .refused r

@[simp] theorem withLock_next (l : Option Nat) (t : State) : withLock l (.next t) = .next (t.setLock l) := rfl

theorem State.setLock_eq_self (s : State) : s.setLock s.lock = s := rfl

/-- A step whose answer does not change with the lock, except that it carries the lock along, leaves the lock as it is. -/
theorem lock_of_next_of_withLock {f : State → Result} {s t : State} (law : ∀ l, f (s.setLock l) = withLock l (f s))
    (h : f s = .next t) : t.lock = s.lock := by
  have same : Host.Outcome.next t = withLock s.lock (.next t) := by
    calc
      .next t = f (s.setLock s.lock) := by rw [s.setLock_eq_self, h]
      _ = withLock s.lock (.next t) := by rw [law, h]
  injection same with same
  exact (congrArg State.lock same :)

/-! ### The shared operations that do not look at the lock -/

theorem needsController_setLock (s : State) (l : Option Nat) {r r' : Result} (hr : r' = withLock l r) :
    needsController (s.setLock l) r' = withLock l (needsController s r) := by
  unfold needsController
  rw [State.setLock_constructed, hr]
  split <;> rfl

theorem memRead_setLock (s : State) (l : Option Nat) (a : Nat) {k : Byte → State → Result}
    (hk : ∀ b s, k b (s.setLock l) = withLock l (k b s)) : memRead (s.setLock l) a k = withLock l (memRead s a k) := by
  unfold memRead
  rw [State.setLock_locate]
  split
  · exact hk _ s.drew
  · exact hk _ s
  · rfl

theorem respondCodec_setLock (s : State) (l : Option Nat) (d : Data) :
    respondCodec (s.setLock l) d = withLock l (respondCodec s d) := by
  unfold respondCodec
  rw [State.setLock_self]
  split <;> rfl

/-! ### The lock-free commands, row by row -/

theorem execGetl_setLock (i : Byte) (s : State) (l : Option Nat) : execGetl i (s.setLock l) = withLock l (execGetl i s) := by
  unfold execGetl
  rw [State.setLock_self]
  split
  · exact needsController_setLock s l (memRead_setLock s l _ fun _ _ => rfl)
  · rfl

theorem execGetd_setLock (i : Byte) (s : State) (l : Option Nat) : execGetd i (s.setLock l) = withLock l (execGetd i s) := by
  unfold execGetd
  rw [State.setLock_self]
  split
  · exact needsController_setLock s l (memRead_setLock s l _ fun _ _ => rfl)
  · rfl

/-- Row 0 of DOUT, the read and the fast path (R168): the one row of DOUT that neither takes the lock nor runs under it. -/
theorem execDout_setLock_of_first (i : Byte) (v : Bool) {s : State} (first : s.self.phase = 0) (l : Option Nat) :
    execDout i v (s.setLock l) = withLock l (execDout i v s) := by
  have first' : s.self.phase.toNat = 0 := by rw [first]; rfl
  unfold execDout
  rw [State.setLock_self, first']
  refine needsController_setLock s l (memRead_setLock s l _ fun b u => ?_)
  dsimp only
  rw [State.upd_params, State.setLock_params, State.upd_params]
  split <;> rfl

theorem execDiag_setLock (i : Byte) (s : State) (l : Option Nat) : execDiag i (s.setLock l) = withLock l (execDiag i s) := by
  unfold execDiag
  rw [State.setLock_self]
  split
  · refine needsController_setLock s l ?_
    rw [State.setLock_skip]
    split <;> rfl
  · exact memRead_setLock s l _ fun _ _ => rfl
  · exact memRead_setLock s l _ fun _ _ => rfl
  · rfl

theorem execDump_setLock (s : State) (l : Option Nat) : execDump (s.setLock l) = withLock l (execDump s) := by
  unfold execDump
  rw [State.setLock_self]
  split
  · exact needsController_setLock s l rfl
  · dsimp only
    rw [State.setLock_skip]
    split
    · rfl
    · split <;> rfl
  · exact memRead_setLock s l _ fun _ _ => rfl
  · exact memRead_setLock s l _ fun _ _ => rfl
  · rfl

/-- Settles O49: command by command, the row run under another lock answers the same with that lock in place. -/
theorem lockFreeCommandsIgnoreTheLock : Obligations.LockFreeCommandsIgnoreTheLock := by
  intro i s t l lockFree h
  have law (l : Option Nat) : exec i (s.setLock l) = withLock l (exec i s) := by
    cases i with
    | getl i => exact execGetl_setLock i s l
    | getd i => exact execGetd_setLock i s l
    | dout i v => exact execDout_setLock_of_first i v lockFree l
    | diag i => exact execDiag_setLock i s l
    | dump => exact execDump_setLock s l
    | down _ | dpull _ | dmux _ | isout _ | rlvl _ | sout _ _ | sin _ => exact respondCodec_setLock s l _
    | req _ | free _ | setl _ _ | din _ | init | teardown => exact False.elim lockFree
  refine ⟨lock_of_next_of_withLock law h, ?_⟩
  calc
    exec i (s.setLock l) = withLock l (exec i s) := law l
    _ = .next (t.setLock l) := by rw [h, withLock_next]

end Sys2Proof.Machine
end

section
/-! PROOFS of the opcode map and the dispatch checks (spec/30_encoding.md R91 to R95). A word is its four fields and the map is read by
the field `op`, so what decoding answers is said once of the fields, case by case of the map; the laws of words follow from it. A row
of the map tests the same fields, because its mask covers each of them wholly or not at all. -/

namespace Sys2Proof

/-! ### A word and its fields (R91) -/

/-- A word whose reserved bits are 0 is assembled from its other fields. -/
theorem assemble_fieldsOf {w : Word} (reserved : (fieldsOf w).z = 0) :
    assemble (fieldsOf w).op (fieldsOf w).v (fieldsOf w).arg = w := by
  have hz : 0#2 = w.extractLsb' 9 2 := reserved.symm
  have hv : BitVec.ofBool (w.getLsbD 8) = w.extractLsb' 8 1 := by
    rw [BitVec.getLsbD_eq_extractLsb']
    generalize w.extractLsb' 8 1 = x
    revert x
    decide
  calc
    assemble (fieldsOf w).op (fieldsOf w).v (fieldsOf w).arg
      = w.extractLsb' 11 5 ++ w.extractLsb' 9 2 ++ w.extractLsb' 8 1 ++ w.extractLsb' 0 8 := by
        rw [← hz, ← hv]
        rfl
    _ = w := by
        iterate 3 rw [BitVec.extractLsb'_append_extractLsb'_eq_extractLsb' (by decide)]
        exact BitVec.extractLsb'_eq_self

theorem fieldsOf_op_toNat (w : Word) : (fieldsOf w).op.toNat = w.toNat / 2 ^ 11 := by
  simp only [fieldsOf, BitVec.extractLsb'_toNat, Nat.shiftRight_eq_div_pow]
  omega

theorem fieldsOf_z_ne_zero_iff (w : Word) : (fieldsOf w).z ≠ 0 ↔ w.toNat / 2 ^ 9 % 4 ≠ 0 := by
  rw [ne_eq, ← BitVec.toNat_inj]
  simp only [fieldsOf, BitVec.extractLsb'_toNat, Nat.shiftRight_eq_div_pow]
  rfl

theorem fieldsOf_v_iff (w : Word) : (fieldsOf w).v = true ↔ w.toNat / 2 ^ 8 % 2 = 1 := by
  simp [fieldsOf, BitVec.getLsbD, Nat.testBit_eq_decide_div_mod_eq]

theorem fieldsOf_arg_ne_zero_iff (w : Word) : (fieldsOf w).arg ≠ 0 ↔ w.toNat % 2 ^ 8 ≠ 0 := by
  rw [ne_eq, ← BitVec.toNat_inj]
  simp only [fieldsOf, BitVec.extractLsb'_toNat, Nat.shiftRight_zero]
  rfl

/-! ### The opcode map, read by the fields (R93, R94) -/

theorem argOnly_ok {c : Command} {i j : Instr} (h : argOnly c i = .ok j) : i = j ∧ c.v = false := by
  unfold argOnly at h
  split at h
  · cases h
  · next hv => exact ⟨by injection h, by simpa using hv⟩

theorem noOperand_ok {c : Command} {i j : Instr} (h : noOperand c i = .ok j) : i = j ∧ c.v = false ∧ c.arg = 0 := by
  unfold noOperand at h
  split at h
  · cases h
  · split at h
    · cases h
    · next hv ha => exact ⟨by injection h, by simpa using hv, by simpa using ha⟩

theorem argOnly_error_iff (c : Command) (i : Instr) : (∃ m, argOnly c i = .error m) ↔ c.v = true := by
  unfold argOnly
  split <;> simp [*]

theorem noOperand_error_iff (c : Command) (i : Instr) : (∃ m, noOperand c i = .error m) ↔ c.v = true ∨ c.arg ≠ 0 := by
  unfold noOperand
  split
  · simp [*]
  · split <;> simp_all

/-- An operation the map answers is the one whose word has these fields. -/
theorem encode_of_decodeOp {c : Command} {i : Instr} (h : decodeOp c = .ok i) : encode i = assemble c.op c.v c.arg := by
  have hop : c.op = BitVec.ofNat 5 c.op.toNat := by simp
  unfold decodeOp at h
  split at h
  case h_5 op | h_6 op | h_17 op =>
    injection h with h
    rw [hop, op, ← h]
    rfl
  case h_9 op | h_10 op | h_11 op =>
    obtain ⟨rfl, hv, ha⟩ := noOperand_ok h
    rw [hop, op, hv, ha]
    rfl
  case h_1 op | h_2 op | h_3 op | h_4 op | h_7 op | h_8 op | h_12 op | h_13 op | h_14 op | h_15 op | h_16 op | h_18 op =>
    obtain ⟨rfl, hv⟩ := argOnly_ok h
    rw [hop, op, hv]
    rfl
  case h_19 => cases h

/-- R94 of the fields, the reserved bits aside. -/
theorem decodeOp_error_iff (c : Command) : (∃ m, decodeOp c = .error m) ↔
    c.op.toNat ∈ [0x00, 0x0C, 0x0D, 0x0E, 0x0F, 0x17, 0x18, 0x19, 0x1A, 0x1B, 0x1C, 0x1D, 0x1E, 0x1F] ∨
    (c.v = true ∧ c.op.toNat ∉ [0x05, 0x06, 0x15]) ∨ (c.arg ≠ 0 ∧ c.op.toNat ∈ [0x09, 0x0A, 0x0B]) := by
  unfold decodeOp
  split
  case h_5 op | h_6 op | h_17 op => simp [op]
  case h_9 op | h_10 op | h_11 op =>
    rw [noOperand_error_iff, op]
    simp
  case h_1 op | h_2 op | h_3 op | h_4 op | h_7 op | h_8 op | h_12 op | h_13 op | h_14 op | h_15 op | h_16 op | h_18 op =>
    rw [argOnly_error_iff, op]
    simp
  case h_19 =>
    have fiveBits : c.op.toNat < 2 ^ 5 := c.op.isLt
    refine iff_of_true ⟨_, rfl⟩ (.inl ?_)
    simp only [List.mem_cons, List.not_mem_nil, or_false, imp_false] at *
    omega

/-! ### Decoding a word (R93, R94) -/

theorem decode_of_z_zero {w : Word} (h : (fieldsOf w).z = 0) : decode w = decodeOp (fieldsOf w) :=
  if_neg (not_not_intro h)

theorem decode_of_z_ne_zero {w : Word} (h : (fieldsOf w).z ≠ 0) : decode w = .error (.reservedBits (fieldsOf w).z) :=
  if_pos h

theorem z_of_decode_ok {w : Word} {i : Instr} (h : decode w = .ok i) : (fieldsOf w).z = 0 := by
  by_contra hz
  rw [decode_of_z_ne_zero hz] at h
  cases h

/-- A word that decodes to an operation is that operation's own word. -/
theorem encode_of_decode {w : Word} {i : Instr} (h : decode w = .ok i) : encode i = w := by
  have hz := z_of_decode_ok h
  rw [decode_of_z_zero hz] at h
  rw [encode_of_decodeOp h, assemble_fieldsOf hz]

theorem decode_error_iff (w : Word) :
    (∃ m, decode w = .error m) ↔ (fieldsOf w).z ≠ 0 ∨ ∃ m, decodeOp (fieldsOf w) = .error m := by
  by_cases hz : (fieldsOf w).z = 0
  · simp [decode_of_z_zero hz, hz]
  · exact iff_of_true ⟨_, decode_of_z_ne_zero hz⟩ (.inl hz)

/-! ### The rows of the opcode map (R93) -/

theorem rowOf_mem_opcodeTable (i : Instr) : rowOf i ∈ opcodeTable := by
  cases i <;> simp [opcodeTable, rowOf]

theorem exists_rowOf_of_mem {r : OpcodeRow} (h : r ∈ opcodeTable) : ∃ i, rowOf i = r := by
  obtain ⟨i, -, hi⟩ := List.mem_map.1 h
  exact ⟨i, hi⟩

theorem rowOf_selects_encode (i : Instr) : (rowOf i).selects (encode i) = true := by
  cases i with
  | req i => exact Laws.EncodeRow.req i
  | free i => exact Laws.EncodeRow.free i
  | getl i => exact Laws.EncodeRow.getl i
  | getd i => exact Laws.EncodeRow.getd i
  | setl i v => exact Laws.EncodeRow.setl i v
  | dout i v => exact Laws.EncodeRow.dout i v
  | din i => exact Laws.EncodeRow.din i
  | diag i => exact Laws.EncodeRow.diag i
  | dump => exact Laws.EncodeRow.dump
  | init => exact Laws.EncodeRow.init
  | teardown => exact Laws.EncodeRow.teardown
  | down b => exact Laws.EncodeRow.down b
  | dpull b => exact Laws.EncodeRow.dpull b
  | dmux b => exact Laws.EncodeRow.dmux b
  | isout b => exact Laws.EncodeRow.isout b
  | rlvl b => exact Laws.EncodeRow.rlvl b
  | sout b v => exact Laws.EncodeRow.sout b v
  | sin b => exact Laws.EncodeRow.sin b

/-- Bits that the row's mask covers are the pattern's. -/
theorem field_of_selects {r : OpcodeRow} {w : Word} (h : r.selects w = true) {start len : Nat}
    (covered : r.mask.extractLsb' start len = BitVec.allOnes len) :
    w.extractLsb' start len = r.pattern.extractLsb' start len := by
  have test : w &&& r.mask = r.pattern := by simpa [OpcodeRow.selects] using h
  rw [← test, BitVec.extractLsb'_and, covered, BitVec.and_allOnes]

theorem value_of_selects {r : OpcodeRow} {w : Word} (h : r.selects w = true)
    (covered : r.mask.extractLsb' 8 1 = BitVec.allOnes 1) : w.getLsbD 8 = r.pattern.getLsbD 8 := by
  rw [BitVec.getLsbD_eq_extractLsb', BitVec.getLsbD_eq_extractLsb', field_of_selects h covered]

/-- Every row covers `op` and, with zeros, the reserved bits; so the word is read by the row's own `op`. -/
theorem decode_of_selects {r : OpcodeRow} {w : Word} (h : r.selects w = true)
    (coversOp : r.mask.extractLsb' 11 5 = BitVec.allOnes 5) (coversZ : r.mask.extractLsb' 9 2 = BitVec.allOnes 2)
    (reserved : r.pattern.extractLsb' 9 2 = 0) :
    decode w = decodeOp ⟨r.pattern.extractLsb' 11 5, 0, w.getLsbD 8, w.extractLsb' 0 8⟩ := by
  have hz : w.extractLsb' 9 2 = 0 := (field_of_selects h coversZ).trans reserved
  rw [decode_of_z_zero hz, ← field_of_selects h coversOp, ← hz]
  rfl

/-- A word that a row selects decodes to an operation of that row: the mask leaves free exactly the row's operands. -/
theorem decode_of_rowOf_selects {i : Instr} {w : Word} (h : (rowOf i).selects w = true) :
    ∃ j, decode w = .ok j ∧ rowOf j = rowOf i := by
  cases i with
  | setl _ _ | dout _ _ | sout _ _ =>
    simp only [rowOf] at h ⊢
    rw [decode_of_selects h (by decide) (by decide) (by decide)]
    exact ⟨_, rfl, rfl⟩
  | dump | init | teardown =>
    simp only [rowOf] at h ⊢
    rw [decode_of_selects h (by decide) (by decide) (by decide), value_of_selects h (by decide),
      field_of_selects h (by decide)]
    exact ⟨_, rfl, rfl⟩
  | req _ | free _ | getl _ | getd _ | din _ | diag _ | down _ | dpull _ | dmux _ | isout _ | rlvl _ | sin _ =>
    simp only [rowOf] at h ⊢
    rw [decode_of_selects h (by decide) (by decide) (by decide), value_of_selects h (by decide)]
    exact ⟨_, rfl, rfl⟩

/-- Settles O2. A row that selects a word is the row of what the word decodes to, so two such rows are one. -/
theorem opcodeRowSelectsDecoded : Obligations.OpcodeRowSelectsDecoded := by
  have selected (w : Word) (r : OpcodeRow) (hr : r ∈ opcodeTable) (h : r.selects w = true) :
      ∃ i, decode w = .ok i ∧ rowOf i = r := by
    obtain ⟨i, rfl⟩ := exists_rowOf_of_mem hr
    exact decode_of_rowOf_selects h
  refine ⟨fun w i h => ⟨rowOf_mem_opcodeTable i, ?_⟩, selected, fun w r q hr hq hrw hqw => ?_⟩
  · rw [← encode_of_decode h]
    exact rowOf_selects_encode i
  · obtain ⟨i, hi, rfl⟩ := selected w r hr hrw
    obtain ⟨j, hj, rfl⟩ := selected w q hq hqw
    have hij : i = j := Except.ok.inj (hi.symm.trans hj)
    rw [hij]

namespace Machine

/-! ### The micro-step of a legal and of an illegal word -/

theorem State.respond_eq_withSelf (s : State) (st : Status) (d : Data) :
    s.respond st d = s.withSelf { s.self with rsp := ⟨statusCode st, d⟩, busy := false } := rfl

theorem microStep_of_ok {s : State} {i : Instr} (h : decode s.self.cmd = .ok i) : microStep s = exec i s := by
  simp only [microStep, h]

/-- An illegal word is answered with status 6 and the word itself, at whatever phase (R94, R98). -/
theorem microStep_of_error {s : State} {m : Malformed} (h : decode s.self.cmd = .error m) :
    microStep s = .next (s.withSelf { s.self with rsp := ⟨6, s.self.cmd.setWidth 64⟩, busy := false }) := by
  have unshifted : placed 0 s.self.cmd = s.self.cmd.setWidth 64 := BitVec.shiftLeft_zero ..
  simp only [microStep, h, State.illegalCommand, unshifted, State.respond_eq_withSelf]
  rfl

/-- Settles O3. -/
theorem illegalWordsAnswered : Obligations.IllegalWordsAnswered := by
  refine ⟨fun w => ?_, fun s m _ h => microStep_of_error h⟩
  rw [decode_error_iff, decodeOp_error_iff, fieldsOf_z_ne_zero_iff, fieldsOf_arg_ne_zero_iff, fieldsOf_v_iff,
    fieldsOf_op_toNat]
  exact or_left_comm

/-! ### The first row of each command (R95) -/

theorem needsController_of_absent {s : State} (absent : s.constructed = false) (r : Result) :
    needsController s r = .next (s.respond .notReady 0) := by
  simp [needsController, absent]

theorem needsNoController_of_constructed {s : State} (built : s.constructed = true) (r : Result) :
    needsNoController s r = .next (s.respond .alreadyConstructed 0) :=
  if_pos built

theorem respondCodec_first {s : State} (first : s.self.phase = 0) (d : Data) :
    respondCodec s d = .next (s.respond .ok d) := by
  unfold respondCodec
  rw [first]
  rfl

/-- INIT's first row is its dispatch check, before anything else. -/
theorem exec_init_first {s : State} (first : s.self.phase = 0) : ∃ r, exec .init s = needsNoController s r := by
  unfold exec execInit
  rw [first]
  exact ⟨_, rfl⟩

/-- The first row of each of the ten commands is the check for a controller, before anything else. -/
theorem exec_first_of_needsConstructed {s : State} {i : Instr} (first : s.self.phase = 0)
    (needs : needsConstructed i = true) : ∃ r, exec i s = needsController s r := by
  cases i with
  | req _ => unfold exec execReq; rw [first]; exact ⟨_, rfl⟩
  | free _ => unfold exec execFree; rw [first]; exact ⟨_, rfl⟩
  | getl _ => unfold exec execGetl; rw [first]; exact ⟨_, rfl⟩
  | getd _ => unfold exec execGetd; rw [first]; exact ⟨_, rfl⟩
  | setl _ _ => unfold exec execSetl; rw [first]; exact ⟨_, rfl⟩
  | dout _ _ => unfold exec execDout; rw [first]; exact ⟨_, rfl⟩
  | din _ => unfold exec execDin; rw [first]; exact ⟨_, rfl⟩
  | diag _ => unfold exec execDiag; rw [first]; exact ⟨_, rfl⟩
  | dump => unfold exec execDump; rw [first]; exact ⟨_, rfl⟩
  | teardown => unfold exec execTeardown; rw [first]; exact ⟨_, rfl⟩
  | init | down _ | dpull _ | dmux _ | isout _ | rlvl _ | sout _ _ | sin _ => cases needs

/-- The commands no dispatch check speaks of are the codec's. -/
theorem exec_eq_respondCodec {i : Instr} (unchecked : needsConstructed i = false) (notInit : i ≠ .init) (s : State) :
    ∃ d, exec i s = respondCodec s d := by
  cases i with
  | down _ | dpull _ | dmux _ | isout _ | rlvl _ | sout _ _ | sin _ => exact ⟨_, rfl⟩
  | init => exact absurd rfl notInit
  | req _ | free _ | getl _ | getd _ | setl _ _ | dout _ _ | din _ | diag _ | dump | teardown => cases unchecked

/-- Settles O8: each clause names the check its command meets first, and what that check answers. -/
theorem dispatchChecksInOrder : Obligations.DispatchChecksInOrder := by
  intro s ⟨_, first⟩
  refine ⟨fun m h => microStep_of_error h, fun h built => ?_, fun i h needs absent => ?_, fun i h unchecked notInit => ?_⟩
  · obtain ⟨r, check⟩ := exec_init_first first
    rw [microStep_of_ok h, check, needsNoController_of_constructed built]
    rfl
  · obtain ⟨r, check⟩ := exec_first_of_needsConstructed first needs
    rw [microStep_of_ok h, check, needsController_of_absent absent]
    rfl
  · obtain ⟨d, codec⟩ := exec_eq_respondCodec unchecked notInit s
    refine ⟨d, ?_⟩
    rw [microStep_of_ok h, codec, respondCodec_first first]
    rfl

end Machine
end Sys2Proof
end

section
/-! PROOFS of the Register Codec (spec/40_codec.md). A field is read through its bits alone, and what a setter does is said once, bit
by bit, for every placement of the fields; the laws of R128 follow because the placement is disjoint. Each codec command is then one
response that carries a value of the codec, computed here at the default positions. -/

namespace Sys2Proof

/-! ### What a well-formed placement gives (D2) -/

/-- The bits of the GPIO byte that no setter of the codec may touch: every field but the
enable and the output value. -/
def Layout.keptBits (l : Layout) : List Nat :=
  [l.ownLsb, l.ownLsb + 1, l.stickyBit, l.pullLsb, l.pullLsb + 1, l.inBit]

theorem Layout.lt_of_mem_gpioBits {l : Layout} (h : l.wellFormed = true) {k : Nat} (hk : k ∈ l.gpioBits) : k < 8 := by
  simp only [Layout.wellFormed, Bool.and_eq_true, List.all_eq_true, decide_eq_true_eq] at h
  obtain ⟨⟨inByte, -⟩, -⟩ := h
  exact inByte k hk

theorem Layout.gpioBits_nodup {l : Layout} (h : l.wellFormed = true) : l.gpioBits.Nodup := by
  simp only [Layout.wellFormed, Bool.and_eq_true, decide_eq_true_eq] at h
  obtain ⟨⟨-, disjoint⟩, -⟩ := h
  exact disjoint

theorem Layout.oebBit_lt {l : Layout} (h : l.wellFormed = true) : l.oebBit < 8 :=
  lt_of_mem_gpioBits h (by simp [Layout.gpioBits])

theorem Layout.outBit_lt {l : Layout} (h : l.wellFormed = true) : l.outBit < 8 :=
  lt_of_mem_gpioBits h (by simp [Layout.gpioBits])

theorem Layout.oebBit_ne_outBit {l : Layout} (h : l.wellFormed = true) : l.oebBit ≠ l.outBit := by
  have disjoint := gpioBits_nodup h
  simp only [Layout.gpioBits, List.nodup_cons, List.mem_cons, not_or] at disjoint
  tauto

theorem Layout.ne_of_mem_keptBits {l : Layout} (h : l.wellFormed = true) {k : Nat} (hk : k ∈ l.keptBits) :
    k ≠ l.oebBit ∧ k ≠ l.outBit := by
  have disjoint := gpioBits_nodup h
  simp only [Layout.gpioBits, List.nodup_cons, List.mem_cons, List.not_mem_nil, not_or, Layout.keptBits, or_false] at disjoint hk
  omega

end Sys2Proof

namespace Sys2Proof.Machine

/-! ### Reading a field of a byte -/

theorem toNat_twoBitField (b : Byte) (lsb : Nat) : (b.extractLsb' lsb 2).toNat = b.toNat / 2 ^ lsb % 4 := by
  rw [BitVec.extractLsb'_toNat, Nat.shiftRight_eq_div_pow]

theorem toNat_lowField (b : Byte) : (b.extractLsb' 0 2).toNat = b.toNat % 4 := by
  rw [toNat_twoBitField, pow_zero, Nat.div_one]

theorem twoBitField_congr {b c : Byte} {lsb : Nat} (low : c.getLsbD lsb = b.getLsbD lsb)
    (high : c.getLsbD (lsb + 1) = b.getLsbD (lsb + 1)) : c.extractLsb' lsb 2 = b.extractLsb' lsb 2 := by
  ext k hk
  rw [BitVec.getElem_extractLsb', BitVec.getElem_extractLsb']
  match k, hk with
  | 0, _ => exact low
  | 1, _ => exact high

/-- R121 depends on nothing but the ownership field. -/
theorem decodeOwnership_congr {p : Params} {b c : Byte} (h : c.extractLsb' p.layout.ownLsb 2 = b.extractLsb' p.layout.ownLsb 2) :
    decodeOwnership p c = decodeOwnership p b := by
  rw [decodeOwnership, decodeOwnership, h]

theorem decodePull_congr {p : Params} {b c : Byte} (h : c.extractLsb' p.layout.pullLsb 2 = b.extractLsb' p.layout.pullLsb 2) :
    decodePull p c = decodePull p b := by
  rw [decodePull, decodePull, h]

theorem readLevel_congr {p : Params} {b c : Byte} (h : c.getLsbD p.layout.inBit = b.getLsbD p.layout.inBit) :
    readLevel p c = readLevel p b := by
  rw [readLevel, readLevel, h]

/-- Bytes that agree on the kept bits decode alike. -/
theorem decode_congr_of_keptBits {p : Params} {b c : Byte} (kept : ∀ k ∈ p.layout.keptBits, c.getLsbD k = b.getLsbD k) :
    decodeOwnership p c = decodeOwnership p b ∧ decodePull p c = decodePull p b ∧ readLevel p c = readLevel p b := by
  refine ⟨decodeOwnership_congr (twoBitField_congr (kept _ ?_) (kept _ ?_)),
    decodePull_congr (twoBitField_congr (kept _ ?_) (kept _ ?_)), readLevel_congr (kept _ ?_)⟩ <;> simp [Layout.keptBits]

/-! ### The setters, bit by bit (R126, R127) -/

theorem getLsbD_bitMask {i : Nat} (hi : i < 8) (k : Nat) : (bitMask i).getLsbD k = decide (k = i) := by
  rw [bitMask, ← BitVec.twoPow_eq, BitVec.getLsbD_twoPow]
  simp [hi, eq_comm]

theorem getLsbD_setOutput {p : Params} (h : p.layout.wellFormed = true) (b : Byte) (v : Bool) (k : Nat) :
    (setOutput p b v).getLsbD k =
      if k = p.layout.outBit then v else if k = p.layout.oebBit then false else b.getLsbD k := by
  have oeb := getLsbD_bitMask (Layout.oebBit_lt h) k
  have out := getLsbD_bitMask (Layout.outBit_lt h) k
  have value : (if v then maskOut p.layout else 0).getLsbD k = (v && decide (k = p.layout.outBit)) := by
    cases v
    · exact BitVec.getLsbD_zero
    · exact out
  rw [setOutput, BitVec.getLsbD_or, value, BitVec.getLsbD_and, BitVec.getLsbD_not, BitVec.getLsbD_or, maskOeb, maskOut, oeb, out]
  split
  · next isOut => simp [isOut]
  · next notOut =>
    split
    · next isOeb => simp [isOeb, Layout.oebBit_ne_outBit h]
    · next notOeb => simpa [notOut, notOeb] using BitVec.lt_of_getLsbD

theorem getLsbD_setInput {p : Params} (h : p.layout.wellFormed = true) (b : Byte) (k : Nat) :
    (setInput p b).getLsbD k = if k = p.layout.oebBit then true else b.getLsbD k := by
  rw [setInput, maskOeb, BitVec.getLsbD_or, getLsbD_bitMask (Layout.oebBit_lt h)]
  split <;> simp [*]

theorem getLsbD_setOutput_of_ne {p : Params} (h : p.layout.wellFormed = true) (b : Byte) (v : Bool) {k : Nat}
    (oeb : k ≠ p.layout.oebBit) (out : k ≠ p.layout.outBit) : (setOutput p b v).getLsbD k = b.getLsbD k := by
  rw [getLsbD_setOutput h, if_neg out, if_neg oeb]

theorem getLsbD_setInput_of_ne {p : Params} (h : p.layout.wellFormed = true) (b : Byte) {k : Nat}
    (oeb : k ≠ p.layout.oebBit) : (setInput p b).getLsbD k = b.getLsbD k := by
  rw [getLsbD_setInput h, if_neg oeb]

theorem isOutputEnabled_setOutput {p : Params} (h : p.layout.wellFormed = true) (b : Byte) (v : Bool) :
    isOutputEnabled p (setOutput p b v) = true := by
  rw [isOutputEnabled, getLsbD_setOutput h, if_neg (Layout.oebBit_ne_outBit h), if_pos rfl]
  rfl

theorem isOutputEnabled_setInput {p : Params} (h : p.layout.wellFormed = true) (b : Byte) :
    isOutputEnabled p (setInput p b) = false := by
  rw [isOutputEnabled, getLsbD_setInput h, if_pos rfl]
  rfl

/-- Settles O15: the setters touch the enable and the output bit alone, and no other field holds either. -/
theorem codecLawsForAnyLayout : Obligations.CodecLawsForAnyLayout := by
  intro p b v h
  obtain ⟨ownOut, pullOut, levelOut⟩ := decode_congr_of_keptBits (p := p) (b := b) (c := setOutput p b v) fun k hk =>
    have ⟨oeb, out⟩ := Layout.ne_of_mem_keptBits h hk
    getLsbD_setOutput_of_ne h b v oeb out
  obtain ⟨ownIn, pullIn, levelIn⟩ := decode_congr_of_keptBits (p := p) (b := b) (c := setInput p b) fun k hk =>
    getLsbD_setInput_of_ne h b (Layout.ne_of_mem_keptBits h hk).1
  have outSet : (setOutput p b v).getLsbD p.layout.outBit = v := by rw [getLsbD_setOutput h, if_pos rfl]
  exact ⟨fun c => decodeOwnership_congr, isOutputEnabled_setOutput h b v, outSet,
    fun k => getLsbD_setOutput_of_ne h b v, fun k => getLsbD_setInput_of_ne h b, isOutputEnabled_setInput h b,
    ⟨ownOut, ownIn⟩, ⟨pullOut, pullIn⟩, levelOut, levelIn⟩

/-! ### The numbers a decoded field answers with (R99) -/

/-- The default code table is read by R99's numbers: the number is the field itself. -/
theorem ownershipNumber_decodeOwnership {p : Params} (codes : p.ownCode = Params.default.ownCode) (b : Byte) :
    ownershipNumber (decodeOwnership p b) = b.extractLsb' p.layout.ownLsb 2 := by
  rw [decodeOwnership, codes]
  generalize b.extractLsb' p.layout.ownLsb 2 = field
  revert field
  decide

theorem muxNumber_decodeMux (p : Params) (b : Byte) : muxNumber (decodeMux p b) = b.extractLsb' p.layout.muxLsb 2 := by
  rw [decodeMux]
  generalize b.extractLsb' p.layout.muxLsb 2 = field
  revert field
  decide

/-! ### The codec commands (R120) -/

theorem placed_zero {w : Nat} (v : BitVec w) : placed 0 v = v.setWidth 64 := BitVec.shiftLeft_zero ..

/-- R120: at its one row a codec command responds OK with its value and changes nothing else. -/
theorem respondCodec_atRow {s : State} (row : AtRow s 0) {d e : Data} (value : d = e) :
    respondCodec s d = .next (s.withSelf { s.self with rsp := ⟨0, e⟩, busy := false }) := by
  obtain ⟨_, first⟩ := row
  rw [respondCodec_first first, State.respond_eq_withSelf, value]
  rfl

/-- Settles O9: the number is the field, so the four field values are the table. -/
theorem ownershipDecoded : Obligations.OwnershipDecoded := by
  intro s b row layout codes
  refine respondCodec_atRow row ?_
  rw [ownershipNumber_decodeOwnership codes, layout, ← toNat_lowField]
  change placed 0 (b.extractLsb' 0 2) = _
  generalize b.extractLsb' 0 2 = f
  revert f
  decide

/-- Settles O10, over the four values of the field. -/
theorem pullDecoded : Obligations.PullDecoded := by
  intro s b row layout codes
  refine respondCodec_atRow row ?_
  have field : b.toNat / 8 % 4 = (b.extractLsb' 3 2).toNat := (toNat_twoBitField b 3).symm
  rw [decodePull, layout, codes, field]
  change placed 0 (pullNumber (Params.default.pullCode.get (b.extractLsb' 3 2).toFin)) = _
  generalize b.extractLsb' 3 2 = f
  revert f
  decide

/-- Settles O11: the function number is the selector field. -/
theorem muxDecoded : Obligations.MuxDecoded := by
  intro s b row layout
  refine respondCodec_atRow row ?_
  rw [muxNumber_decodeMux, layout, placed_zero, ← toNat_lowField, BitVec.ofNat_toNat]
  rfl

/-- Settles O12: each command answers one bit of the byte. -/
theorem enableAndLevelRead : Obligations.EnableAndLevelRead := by
  intro s b row layout
  refine ⟨respondCodec_atRow row ?_, respondCodec_atRow row ?_⟩
  · rw [isOutputEnabled, layout]
    change placed 0 (BitVec.ofBool !b[5]) = _
    cases b[5] <;> rfl
  · rw [readLevel, layout]
    change placed 0 (levelNumber (if b[7] then .high else .low)) = _
    cases b[7] <;> rfl

/-- Settles O13: at the default positions the masks are R126's constants. -/
theorem outputSetInByte : Obligations.OutputSetInByte := by
  intro s b v row layout
  refine respondCodec_atRow row ?_
  rw [placed_zero, setOutput, layout]
  rfl

/-- Settles O14: at the default positions the mask is R127's constant. -/
theorem inputSetInByte : Obligations.InputSetInByte := by
  intro s b row layout
  refine respondCodec_atRow row ?_
  rw [placed_zero, setInput, layout]
  rfl

end Sys2Proof.Machine
end

section
/-! PROOFS of the two lifecycle commands (spec/41_locator_lifecycle.md R141, R150). First what a shared operation answers when its
condition holds; then what the locator computes, in the spec's terms (R142 to R146, R98); then one equation for each row of the two
phase tables. The statements choose a branch of a row. -/

namespace Sys2Proof.Machine

/-! ### The shared operations where their condition holds -/

theorem State.raise_of_not_held {s : State} (free : s.lock ≠ some s.cur) (st : Status) (info : Data) :
    s.raise st info = s.withSelf { s.self with rsp := ⟨statusCode st, info⟩, busy := false } := by
  rw [State.raise_eq, if_neg free]
  rfl

theorem needsController_of_constructed {s : State} (built : s.constructed = true) (r : Result) : needsController s r = r :=
  if_pos built

theorem needsNoController_of_absent {s : State} (absent : s.constructed = false) (r : Result) : needsNoController s r = r := by
  simp [needsNoController, absent]

theorem acquire_of_free {s : State} (free : s.lock = none) (next : State → Result) :
    acquire s next = next (s.setLock (some s.cur)) :=
  if_pos free

theorem release_of_held {s : State} (held : s.lock = some s.cur) (next : State → Result) :
    release s next = next (s.setLock none) :=
  if_pos held

theorem ioWrite_indexPort (s : State) (v : Byte) (next : State → Result) :
    ioWrite s s.params.pmIndexPort v next = next (s.setPmidx v) :=
  if_pos rfl

theorem ioRead_dataPort (s : State) (next : Byte → State → Result) :
    ioRead s s.params.pmDataPort next = next (s.pmreg.read s.pmidx.toNat) s :=
  if_pos rfl

/-! ### What the locator computes (R142, R144 to R146) -/

/-- R142's predicate, with the revisions compared as numbers. -/
theorem chipSupported_iff (p : Inputs) :
    chipSupported p = true ↔ p.chipMatch = true ∧ (p.chipGated = false ∨ 0x40 ≤ p.chipRev.toNat) := by
  simp [chipSupported, revMin, BitVec.le_def]

theorem not_chipSupported_iff (p : Inputs) :
    ¬chipSupported p = true ↔ p.chipMatch = false ∨ (p.chipGated = true ∧ p.chipRev.toNat < 0x40) := by
  rw [chipSupported_iff, not_and_or, not_or, Bool.not_eq_true, Bool.not_eq_false, not_le]

/-- The loop of R143 ends with the fourth byte. -/
theorem succ_lt_four_iff {k : BitVec 9} (inLoop : k.toNat < 4) : (k + 1).toNat < 4 ↔ k.toNat ≠ 3 := by
  bv_omega

theorem toNat_lowBits {w : Nat} (raw : BitVec w) : (raw.extractLsb' 0 2).toNat = raw.toNat % 4 := by
  rw [BitVec.extractLsb'_toNat, Nat.shiftRight_zero]

theorem lowBits_eq_one_iff {w : Nat} (raw : BitVec w) : raw.extractLsb' 0 2 = 0b01#2 ↔ raw.toNat % 4 = 1 := by
  rw [← BitVec.toNat_inj, toNat_lowBits]
  rfl

/-- R145's mask clears the two low bits: shift them out and back. -/
theorem maskedBase_eq_shift (raw : BitVec 32) : maskedBase raw = raw >>> 2 <<< 2 :=
  (BitVec.shiftLeft_ushiftRight (x := raw) (n := 2)).symm

theorem toNat_maskedBase (raw : BitVec 32) : (maskedBase raw).toNat = raw.toNat - raw.toNat % 4 := by
  rw [maskedBase_eq_shift, BitVec.toNat_shiftLeft, BitVec.toNat_ushiftRight, Nat.shiftLeft_eq, Nat.shiftRight_eq_div_pow]
  omega

/-- R146 at an enabled base register, whose low bits are `01`. -/
theorem derivedBase_of_enabled {raw : BitVec 32} (enabled : raw.toNat % 4 = 1) (offset : Nat) :
    derivedBase raw offset = BitVec.ofNat 33 (raw.toNat - 1 + offset) := by
  rw [derivedBase, toNat_maskedBase, enabled]

/-! ### Response data as concatenations (R98) -/

/-- A field placed just above another is their concatenation. -/
theorem placed_or_placed {v w : Nat} (a : BitVec v) (b : BitVec w) : placed w a ||| placed 0 b = (a ++ b).setWidth 64 := by
  ext i hi
  by_cases low : i < w
  · simp [placed, BitVec.getLsbD_append, low]
  · have aboveB : b.getLsbD i = false := BitVec.getLsbD_of_ge _ _ (not_lt.mp low)
    simp [placed, BitVec.getLsbD_append, low, aboveB]

theorem deniedData_gpio (base : Base) : deniedData base 0 = base.setWidth 64 := by
  rw [deniedData, placed_zero]
  exact BitVec.zero_or

theorem deniedData_iomux (base : Base) : deniedData base 1 = (1#1 ++ 0#30 ++ base).setWidth 64 := by
  rw [← placed_or_placed]
  rfl

theorem basesData_eq (gpioBase iomuxBase : Base) :
    basesData gpioBase iomuxBase = (iomuxBase.setWidth 32 ++ gpioBase.setWidth 32).setWidth 64 :=
  placed_or_placed _ _

/-! ### INIT, row by row (R141) -/

section Init

variable {s : State}

theorem exec_init_chipCheck (row : AtRow s 0) (absent : s.constructed = false) :
    exec .init s =
      if chipSupported s.inputs then .next ((s.setLocRaw 0).withSelf { s.self with k := 0, phase := 1 })
      else .next (s.respond .unsupportedChip 0) := by
  unfold exec execInit
  rw [row.phase]
  exact needsNoController_of_absent absent _

theorem exec_init_indexWrite (row : AtRow s 1) :
    exec .init s = .next ((s.setPmidx (locatorIndex s.params s.self.k)).goto 2) := by
  unfold exec execInit
  rw [row.phase]
  exact ioWrite_indexPort s _ _

theorem exec_init_dataRead (row : AtRow s 2) :
    exec .init s =
      .next ((s.setLocRaw (assembleByte s.locRaw s.self.k (s.pmreg.read s.pmidx.toNat))).withSelf
        { s.self with k := s.self.k + 1, phase := if (s.self.k + 1).toNat < 4 then 1 else 3 }) := by
  unfold exec execInit
  rw [row.phase]
  exact ioRead_dataPort s _

theorem exec_init_validate (row : AtRow s 3) :
    exec .init s =
      if s.locRaw = 0 ∨ s.locRaw = 0xFFFFFFFF then .next (s.raise .discoveryFailed (placed 0 s.locRaw))
      else if s.locRaw.extractLsb' 0 2 ≠ 0b01#2 then .next (s.raise .notMemoryMapped (placed 0 s.locRaw))
      else
        .next ((s.setBases (derivedBase s.locRaw s.params.gpioOffset)
          (derivedBase s.locRaw s.params.iomuxOffset)).goto 4) := by
  unfold exec execInit
  rw [row.phase]
  rfl

theorem exec_init_reserveGpio (row : AtRow s 4) :
    exec .init s =
      if s.arbiterGrants s.gpioBase.toNat s.params.bankSize then .next ((s.drew.setGpioRsv true).goto 5)
      else .next (s.drew.raise .regionUnavailable (deniedData s.gpioBase 0)) := by
  unfold exec execInit
  rw [row.phase]
  exact regionReserve_eq s _ _

theorem exec_init_reserveIomux (row : AtRow s 5) :
    exec .init s =
      if s.arbiterGrants s.iomuxBase.toNat s.params.bankSize then .next ((s.drew.setIomuxRsv true).goto 7)
      else .next (s.drew.goto 6) := by
  unfold exec execInit
  rw [row.phase]
  exact regionReserve_eq s _ _

theorem exec_init_rollback (row : AtRow s 6) :
    exec .init s = .next ((s.setGpioRsv false).raise .regionUnavailable (deniedData s.iomuxBase 1)) := by
  unfold exec execInit
  rw [row.phase]
  rfl

theorem exec_init_construct (row : AtRow s 7) :
    exec .init s = .next ((s.setConstructed true).respond .ok (basesData s.gpioBase s.iomuxBase)) := by
  unfold exec execInit
  rw [row.phase]
  rfl

end Init

/-- Settles O27: each clause is one branch of its row, with the locator's values in R141's terms. -/
theorem initRows : Obligations.InitRows := by
  intro s
  refine ⟨fun row absent unsupported => ?chipRejected, fun row absent chipMatch rev => ?chipAccepted,
    exec_init_indexWrite, fun row inLoop => ?byteRead, fun row unpopulated free => ?discoveryFailed,
    fun row notZero notOnes lowBits free => ?notMemoryMapped, fun row notZero notOnes lowBits => ?basesDerived,
    fun row granted => ?gpioGranted, fun row denied free => ?gpioDenied, fun row granted => ?iomuxGranted,
    fun row denied => ?iomuxDenied, fun row free => ?rolledBack, fun row => ?constructed⟩
  case chipRejected =>
    rw [exec_init_chipCheck row absent, if_neg ((not_chipSupported_iff _).2 unsupported)]
    rfl
  case chipAccepted =>
    rw [exec_init_chipCheck row absent, if_pos ((chipSupported_iff _).2 ⟨chipMatch, rev⟩)]
  case byteRead =>
    simp only [exec_init_dataRead row, succ_lt_four_iff inLoop, ite_not]
    rfl
  case discoveryFailed =>
    rw [exec_init_validate row, if_pos unpopulated, State.raise_of_not_held free, placed_zero]
    rfl
  case notMemoryMapped =>
    rw [exec_init_validate row, if_neg (not_or_intro notZero notOnes), if_pos ((lowBits_eq_one_iff _).not.2 lowBits),
      State.raise_of_not_held free, placed_zero]
    rfl
  case basesDerived =>
    rw [exec_init_validate row, if_neg (not_or_intro notZero notOnes), if_neg (not_not_intro ((lowBits_eq_one_iff _).2 lowBits)),
      derivedBase_of_enabled lowBits, derivedBase_of_enabled lowBits]
    rfl
  case gpioGranted =>
    rw [exec_init_reserveGpio row, if_pos granted]
    rfl
  case gpioDenied =>
    rw [exec_init_reserveGpio row, if_neg (ne_true_of_eq_false denied), State.raise_of_not_held (s := s.drew) free,
      deniedData_gpio]
    rfl
  case iomuxGranted =>
    rw [exec_init_reserveIomux row, if_pos granted]
    rfl
  case iomuxDenied =>
    rw [exec_init_reserveIomux row, if_neg (ne_true_of_eq_false denied)]
    rfl
  case rolledBack =>
    rw [exec_init_rollback row, State.raise_of_not_held (s := s.setGpioRsv false) free, deniedData_iomux]
    rfl
  case constructed =>
    rw [exec_init_construct row, basesData_eq]
    rfl

/-! ### TEARDOWN, row by row (R150) -/

section Teardown

variable {s : State}

theorem exec_teardown_begin (row : AtRow s 0) (built : s.constructed = true) (free : s.lock = none) :
    exec .teardown s =
      .next (((s.setLock (some s.cur)).setConstructed false).withSelf { s.self with k := 0, n := 0, phase := 1 }) := by
  unfold exec execTeardown
  rw [row.phase]
  exact (needsController_of_constructed built _).trans (acquire_of_free free _)

/-- The loop over the pins; a requested pin's saved byte is written to the pin's own address. -/
theorem exec_teardown_loop (row : AtRow s 1) :
    exec .teardown s =
      if s.self.k.toNat = Config.nPin then .next (s.goto 2)
      else if s.valid s.self.k.toNat then
        memWrite s (gpioAddr s s.self.k.toNat) (s.saved s.self.k.toNat) fun s' =>
          .next ((s'.dropOriginal s.self.k.toNat).upd fun c => { c with n := c.n + 1, k := c.k + 1 })
      else .next (s.withSelf { s.self with k := s.self.k + 1 }) := by
  unfold exec execTeardown
  rw [row.phase]
  rfl

theorem exec_teardown_release (row : AtRow s 2) (held : s.lock = some s.cur) :
    exec .teardown s = .next ((s.setLock none).withSelf { s.self with phase := 3 }) := by
  unfold exec execTeardown
  rw [row.phase]
  exact release_of_held held _

theorem exec_teardown_releaseIomux (row : AtRow s 3) :
    exec .teardown s = .next ((s.setIomuxRsv false).withSelf { s.self with phase := 4 }) := by
  unfold exec execTeardown
  rw [row.phase]
  rfl

theorem exec_teardown_releaseGpio (row : AtRow s 4) :
    exec .teardown s = .next ((s.setGpioRsv false).respond .ok (placed 0 s.self.n)) := by
  unfold exec execTeardown
  rw [row.phase]
  rfl

end Teardown

/-- Settles O28: the loop's row has three branches, every other row one. -/
theorem teardownRows : Obligations.TeardownRows := by
  intro s
  refine ⟨exec_teardown_begin, fun row atEnd => ?loopEnds, fun row inBank notRequested => ?pinSkipped,
    fun row inBank requested => ?pinRestored, exec_teardown_release, exec_teardown_releaseIomux, fun row => ?answered⟩
  case loopEnds =>
    have pastBank : s.self.k.toNat = Config.nPin := congrArg BitVec.toNat atEnd
    rw [exec_teardown_loop row, if_pos pastBank]
    rfl
  case pinSkipped =>
    rw [exec_teardown_loop row, if_neg inBank.ne, if_neg (ne_true_of_eq_false notRequested)]
  case pinRestored =>
    rw [exec_teardown_loop row, if_neg inBank.ne, if_pos requested, memWrite_gpioAddr s inBank]
    rfl
  case answered =>
    rw [exec_teardown_releaseGpio row, placed_zero]
    rfl

end Sys2Proof.Machine
end

section
/-! PROOFS of the phase tables of the line controller (spec/42_line_controller.md R163 to R169). First what each shared row of the
tables answers where its condition holds: the row that takes the lock, the read, the write, the row that releases the lock and
responds, and the override gate of DOUT and DIN. Then one equation for each row of the seven tables; the statements choose a branch
of a row. -/

namespace Sys2Proof.Machine

/-! ### The shared rows where their condition holds -/

theorem needsController_acquire {s : State} (built : s.constructed = true) (free : s.lock = none) (next : State → Result) :
    needsController s (acquire s next) = next (s.setLock (some s.cur)) :=
  (needsController_of_constructed built _).trans (acquire_of_free free next)

/-- R214: a `raise` under the lock frees it. -/
theorem State.raise_of_held {s : State} (held : s.lock = some s.cur) (st : Status) (info : Data) :
    s.raise st info = (s.setLock none).withSelf { s.self with rsp := ⟨statusCode st, info⟩, busy := false } := by
  rw [State.raise_eq, if_pos held]
  rfl

theorem releaseOk_of_held {s : State} (held : s.lock = some s.cur) (data : Data) :
    releaseOk s data = .next ((s.setLock none).withSelf { s.self with rsp := ⟨0, data⟩, busy := false }) :=
  release_of_held held _

/-- A pin's operand always names a byte of the bank (R65). -/
theorem memRead_pin (i : Byte) (s : State) (k : Byte → State → Result) :
    memRead s (gpioAddr s i.toNat) k = k (s.gpioSampled i.toNat) s.drew :=
  memRead_gpioAddr s i.isLt k

theorem readPin_eq (i : Byte) (p : BitVec 4) (s : State) :
    readPin i p s = .next (s.drew.withSelf { s.self with b := s.gpioSampled i.toNat, phase := p }) :=
  memRead_pin i s _

theorem writePin_eq (i t : Byte) (p : BitVec 4) (s : State) :
    writePin i t p s = .next ((s.storeGpio i.toNat t).withSelf { s.self with t := t, phase := p }) :=
  memWrite_gpioAddr s i.isLt t _

/-- The last write of the running context's registers is the one that stays. -/
theorem State.upd_withSelf (s : State) (f : Context → Context) (x : Context) : (s.upd f).withSelf x = s.withSelf x :=
  congrArg (fun ctxs => { s with ctxs := ctxs }) (List.set_set ..)

theorem State.upd_setLock (s : State) (f : Context → Context) (l : Option Nat) : (s.upd f).setLock l = (s.setLock l).upd f := rfl

/-! ### The override gate (R162, R168, R169) -/

section Gate

variable {i t : Byte} {p : BitVec 4} {s : State}

theorem changeDirection_of_unchanged (curExists : s.cur < s.ctxs.length) (held : s.lock = some s.cur) (unchanged : t = s.self.b) :
    changeDirection i t p s = .next ((s.setLock none).withSelf { s.self with t := t, rsp := ⟨0, 0⟩, busy := false }) := by
  rw [changeDirection, if_pos unchanged, releaseOk_of_held (s := s.upd _) held, State.upd_self curExists,
    State.upd_setLock, State.upd_withSelf]

theorem changeDirection_of_refused (curExists : s.cur < s.ctxs.length) (held : s.lock = some s.cur) (changed : t ≠ s.self.b)
    (safe : s.override = false) :
    changeDirection i t p s = .next ((s.setLock none).withSelf
      { s.self with t := t, rsp := ⟨5, (t ++ s.self.b).setWidth 64⟩, busy := false }) := by
  have refused : (!s.override) = true := by rw [safe]; rfl
  rw [changeDirection, if_neg changed, if_pos refused, State.raise_of_held (s := s.upd _) held, State.upd_self curExists,
    State.upd_setLock, State.upd_withSelf, targetAndCurrent, placed_or_placed]
  rfl

theorem changeDirection_of_overridden (changed : t ≠ s.self.b) (overridden : s.override = true) :
    changeDirection i t p s = .next ((s.storeGpio i.toNat t).withSelf { s.self with t := t, phase := p }) := by
  have allowed : ¬(!s.override) = true := by rw [overridden]; exact Bool.false_ne_true
  rw [changeDirection, if_neg changed, if_neg allowed, writePin_eq]

end Gate

/-! ### REQ (R163) -/

section Req

variable {i : Byte} {s : State}

theorem exec_req_acquire (row : AtRow s 0) (built : s.constructed = true) (free : s.lock = none) :
    exec (.req i) s = .next ((s.setLock (some s.cur)).withSelf { s.self with phase := 1 }) := by
  unfold exec execReq
  rw [row.phase]
  exact needsController_acquire built free _

theorem exec_req_read (row : AtRow s 1) :
    exec (.req i) s = .next (s.drew.withSelf { s.self with b := s.gpioSampled i.toNat, phase := 2 }) := by
  unfold exec execReq
  rw [row.phase]
  exact readPin_eq i 2 s

theorem exec_req_answer (row : AtRow s 2) :
    exec (.req i) s =
      if decodeOwnership s.params s.self.b = .embeddedController then .next (s.raise .ownershipConflict (placed 0 s.self.b))
      else releaseOk (s.saveOriginal i.toNat s.self.b) (placed 0 s.self.b) := by
  unfold exec execReq
  rw [row.phase]
  rfl

end Req

/-- Settles O19: the last row answers the conflict or records the byte. -/
theorem reqRows : Obligations.ReqRows := by
  intro i s
  refine ⟨exec_req_acquire, exec_req_read, fun row held conflict => ?refused, fun row held noConflict => ?recorded⟩
  case refused =>
    rw [exec_req_answer row, if_pos conflict, State.raise_of_held held, placed_zero]
    rfl
  case recorded =>
    rw [exec_req_answer row, if_neg noConflict, releaseOk_of_held (s := s.saveOriginal i.toNat s.self.b) held, placed_zero]
    rfl

/-! ### FREE (R164) -/

section Free

variable {i : Byte} {s : State}

theorem exec_free_acquire (row : AtRow s 0) (built : s.constructed = true) (free : s.lock = none) :
    exec (.free i) s = .next ((s.setLock (some s.cur)).withSelf { s.self with phase := 1 }) := by
  unfold exec execFree
  rw [row.phase]
  exact needsController_acquire built free _

theorem exec_free_restore (row : AtRow s 1) :
    exec (.free i) s =
      if s.valid i.toNat then writePin i (s.saved i.toNat) 2 s else .next (s.raise .notRequested 0) := by
  unfold exec execFree
  rw [row.phase]
  rfl

theorem exec_free_drop (row : AtRow s 2) : exec (.free i) s = releaseOk (s.dropOriginal i.toNat) (placed 0 s.self.t) := by
  unfold exec execFree
  rw [row.phase]
  rfl

end Free

/-- Settles O20: the row after `Acquire` looks at the table. -/
theorem freeRows : Obligations.FreeRows := by
  intro i s
  refine ⟨exec_free_acquire, fun row held notRequested => ?refused, fun row requested => ?restored, fun row held => ?dropped⟩
  case refused =>
    rw [exec_free_restore row, if_neg (ne_true_of_eq_false notRequested), State.raise_of_held held]
    rfl
  case restored =>
    rw [exec_free_restore row, if_pos requested, writePin_eq]
  case dropped =>
    rw [exec_free_drop row, releaseOk_of_held (s := s.dropOriginal i.toNat) held, placed_zero]
    rfl

/-! ### GETL and GETD (R165, R166) -/

theorem placed_levelNumber_readLevel (p : Params) (b : Byte) :
    placed 0 (levelNumber (readLevel p b)) = if b.getLsbD p.layout.inBit then 1 else 0 := by
  rw [readLevel]
  split <;> rfl

theorem placed_directionNumber_directionOf (p : Params) (b : Byte) :
    placed 0 (directionNumber (directionOf p b)) = if b.getLsbD p.layout.oebBit then 1 else 0 := by
  rw [directionOf, isOutputEnabled]
  cases b.getLsbD p.layout.oebBit <;> rfl

/-- Both commands read the pin's byte and respond in one row; `answer` is what they make of the byte. -/
theorem read_and_respond {s : State} (row : AtRow s 0) (built : s.constructed = true) (i : Byte) (answer : Params → Byte → Data) :
    (needsController s <| memRead s (gpioAddr s i.toNat) fun b s =>
        .next ((s.upd fun c => { c with b := b }).respond .ok (answer s.params b))) =
      .next (s.drew.withSelf
        { s.self with b := s.gpioSampled i.toNat, rsp := ⟨0, answer s.params (s.gpioSampled i.toNat)⟩, busy := false }) := by
  rw [needsController_of_constructed built, memRead_pin, State.respond_eq_withSelf, State.upd_self (s := s.drew) row.curExists,
    State.upd_withSelf]
  rfl

/-- Settles O21. -/
theorem levelAndDirectionRows : Obligations.LevelAndDirectionRows := by
  intro i s row built
  refine ⟨?level, ?direction⟩
  case level =>
    rw [← placed_levelNumber_readLevel]
    unfold exec execGetl
    rw [row.phase]
    exact read_and_respond row built i fun p b => placed 0 (levelNumber (readLevel p b))
  case direction =>
    rw [← placed_directionNumber_directionOf]
    unfold exec execGetd
    rw [row.phase]
    exact read_and_respond row built i fun p b => placed 0 (directionNumber (directionOf p b))

/-! ### SETL (R167) -/

section Setl

variable {i : Byte} {v : Bool} {s : State}

theorem exec_setl_acquire (row : AtRow s 0) (built : s.constructed = true) (free : s.lock = none) :
    exec (.setl i v) s = .next ((s.setLock (some s.cur)).withSelf { s.self with phase := 1 }) := by
  unfold exec execSetl
  rw [row.phase]
  exact needsController_acquire built free _

theorem exec_setl_read (row : AtRow s 1) :
    exec (.setl i v) s = .next (s.drew.withSelf { s.self with b := s.gpioSampled i.toNat, phase := 2 }) := by
  unfold exec execSetl
  rw [row.phase]
  exact readPin_eq i 2 s

theorem exec_setl_write (row : AtRow s 2) :
    exec (.setl i v) s =
      if isOutputEnabled s.params s.self.b || s.override then writePin i (setOutput s.params s.self.b v) 3 s
      else releaseOk s 0 := by
  unfold exec execSetl
  rw [row.phase]
  rfl

theorem exec_setl_release (row : AtRow s 3) (held : s.lock = some s.cur) :
    exec (.setl i v) s = .next ((s.setLock none).withSelf { s.self with rsp := ⟨0, 0⟩, busy := false }) := by
  unfold exec execSetl
  rw [row.phase]
  exact releaseOk_of_held held 0

end Setl

/-- Settles O22: the row after the read writes or drops the value. -/
theorem setlRows : Obligations.SetlRows := by
  intro i v s
  refine ⟨exec_setl_acquire, exec_setl_read, fun row allowed => ?written, fun row held input safe => ?dropped, exec_setl_release⟩
  case written =>
    rw [exec_setl_write row, if_pos ((Bool.or_eq_true _ _).mpr allowed), writePin_eq]
  case dropped =>
    have notAllowed : (isOutputEnabled s.params s.self.b || s.override) = false := by rw [input, safe]; rfl
    rw [exec_setl_write row, if_neg (ne_true_of_eq_false notAllowed), releaseOk_of_held held]

/-! ### DOUT (R168) -/

section Dout

variable {i : Byte} {v : Bool} {s : State}

/-- The row outside the lock: a pin that already drives its output is answered at once. -/
theorem exec_dout_firstRead (row : AtRow s 0) (built : s.constructed = true) :
    exec (.dout i v) s = .next (s.drew.withSelf
      (if isOutputEnabled s.params (s.gpioSampled i.toNat) then
        { s.self with b := s.gpioSampled i.toNat, rsp := ⟨0, 0⟩, busy := false }
      else { s.self with b := s.gpioSampled i.toNat, phase := 1 })) := by
  unfold exec execDout
  rw [row.phase]
  refine (needsController_of_constructed built _).trans ((memRead_pin i s _).trans ?_)
  dsimp only
  rw [State.upd_params, State.drew_params, State.respond_eq_withSelf, State.goto_eq, State.upd_upd (s := s.drew) row.curExists,
    State.upd_self (s := s.drew) row.curExists, State.upd_withSelf]
  split <;> rfl

theorem exec_dout_acquire (row : AtRow s 1) (free : s.lock = none) :
    exec (.dout i v) s = .next ((s.setLock (some s.cur)).withSelf { s.self with phase := 2 }) := by
  unfold exec execDout
  rw [row.phase]
  exact acquire_of_free free _

theorem exec_dout_read (row : AtRow s 2) :
    exec (.dout i v) s = .next (s.drew.withSelf { s.self with b := s.gpioSampled i.toNat, phase := 3 }) := by
  unfold exec execDout
  rw [row.phase]
  exact readPin_eq i 3 s

theorem exec_dout_gate (row : AtRow s 3) :
    exec (.dout i v) s = changeDirection i (setOutput s.params s.self.b v) 4 s := by
  unfold exec execDout
  rw [row.phase]
  rfl

theorem exec_dout_release (row : AtRow s 4) (held : s.lock = some s.cur) :
    exec (.dout i v) s = .next ((s.setLock none).withSelf { s.self with rsp := ⟨0, 0⟩, busy := false }) := by
  unfold exec execDout
  rw [row.phase]
  exact releaseOk_of_held held 0

end Dout

/-- Settles O23: the first read has the fast path, the second the override gate. -/
theorem doutRows : Obligations.DoutRows := by
  intro i v s
  refine ⟨fun row built output => ?fastPath, fun row built input => ?slowPath, exec_dout_acquire, exec_dout_read,
    fun row held unchanged => ?unchanged, fun row held changed safe => ?refused, fun row changed overridden => ?written,
    exec_dout_release⟩
  case fastPath => rw [exec_dout_firstRead row built, if_pos output]
  case slowPath => rw [exec_dout_firstRead row built, if_neg (ne_true_of_eq_false input)]
  case unchanged => rw [exec_dout_gate row, changeDirection_of_unchanged row.curExists held unchanged]
  case refused => rw [exec_dout_gate row, changeDirection_of_refused row.curExists held changed safe]
  case written => rw [exec_dout_gate row, changeDirection_of_overridden changed overridden]

/-! ### DIN (R169) -/

section Din

variable {i : Byte} {s : State}

theorem exec_din_acquire (row : AtRow s 0) (built : s.constructed = true) (free : s.lock = none) :
    exec (.din i) s = .next ((s.setLock (some s.cur)).withSelf { s.self with phase := 1 }) := by
  unfold exec execDin
  rw [row.phase]
  exact needsController_acquire built free _

theorem exec_din_read (row : AtRow s 1) :
    exec (.din i) s = .next (s.drew.withSelf { s.self with b := s.gpioSampled i.toNat, phase := 2 }) := by
  unfold exec execDin
  rw [row.phase]
  exact readPin_eq i 2 s

theorem exec_din_gate (row : AtRow s 2) : exec (.din i) s = changeDirection i (setInput s.params s.self.b) 3 s := by
  unfold exec execDin
  rw [row.phase]
  rfl

theorem exec_din_release (row : AtRow s 3) (held : s.lock = some s.cur) :
    exec (.din i) s = .next ((s.setLock none).withSelf { s.self with rsp := ⟨0, 0⟩, busy := false }) := by
  unfold exec execDin
  rw [row.phase]
  exact releaseOk_of_held held 0

end Din

/-- Settles O24: the row after the read is the override gate. -/
theorem dinRows : Obligations.DinRows := by
  intro i s
  refine ⟨exec_din_acquire, exec_din_read, fun row held unchanged => ?unchanged, fun row held changed safe => ?refused,
    fun row changed overridden => ?written, exec_din_release⟩
  case unchanged => rw [exec_din_gate row, changeDirection_of_unchanged row.curExists held unchanged]
  case refused => rw [exec_din_gate row, changeDirection_of_refused row.curExists held changed safe]
  case written => rw [exec_din_gate row, changeDirection_of_overridden changed overridden]

end Sys2Proof.Machine
end

section
/-! PROOFS about errors (spec/42_line_controller.md R171, spec/60_exceptions.md R214): "every `raise` stands before the first
`MemWrite` and the first table write of its command". Each phase table has a last row that can answer an error. One law says of a row
of any command where it stands: not after that row, and then it writes nothing but what a refused command may have written; or not
before it, and then the command goes on beyond it or answers OK. A command that ends in an error therefore took only rows of the first
kind. -/

namespace Sys2Proof.Machine

/-! ### What a command that answers an error may have changed -/

/-- The last row of each command's phase table that can answer a status other than OK. -/
@[simp] def lastErrorRow : Instr → Nat
  | .req _ => 2
  | .free _ => 1
  | .dout _ _ => 3
  | .din _ => 2
  | .init => 6
  | _ => 0

/-- The state with everything blanked out that command `i` may change before it answers an error: the lock, the registers of its
context and the draws; for INIT also the index latch and the registers of the locator. -/
def State.blanked (i : Instr) (s : State) : State :=
  { s with
    lock := none
    draws := 0
    ctxs := s.ctxs.set s.cur Context.idle
    pmidx := if i = .init then 0 else s.pmidx
    locRaw := if i = .init then 0 else s.locRaw
    gpioBase := if i = .init then 0 else s.gpioBase
    iomuxBase := if i = .init then 0 else s.iomuxBase
    gpioRsv := if i = .init then false else s.gpioRsv
    iomuxRsv := if i = .init then false else s.iomuxRsv }

/-- The lock as the running command leaves it if it answers an error from here: past the first row, `raise` frees it if the context
holds it; a dispatch check leaves it alone; and the answer of an idle context has been given. -/
def State.settledLock (s : State) : Option Nat :=
  if s.self.busy = true ∧ s.self.phase ≠ 0 ∧ s.lock = some s.cur then none else s.lock

theorem State.blanked_upd (i : Instr) (s : State) (f : Context → Context) : (s.upd f).blanked i = s.blanked i :=
  congrArg (fun ctxs => { s.blanked i with ctxs := ctxs }) (List.set_set ..)

theorem State.settledLock_of_idle {s : State} (idle : s.self.busy = false) : s.settledLock = s.lock :=
  if_neg fun h => Bool.false_ne_true (idle.symm.trans h.1)

theorem State.settledLock_of_first {s : State} (first : s.self.phase = 0) : s.settledLock = s.lock :=
  if_neg fun h => h.2.1 first

theorem State.settledLock_of_held {s : State} (running : s.self.busy = true) (moved : s.self.phase ≠ 0)
    (held : s.lock = some s.cur) : s.settledLock = none :=
  if_pos ⟨running, moved, held⟩

theorem State.settledLock_of_not_held {s : State} (notHeld : s.lock ≠ some s.cur) : s.settledLock = s.lock :=
  if_neg fun h => notHeld h.2.2

theorem State.cur_lt_of_busy {s : State} (running : s.self.busy = true) : s.cur < s.ctxs.length := by
  by_contra outside
  rw [State.self, State.ctx_of_ge (not_lt.mp outside)] at running
  exact Bool.false_ne_true running

theorem State.eq_zero_of_toNat_phase {s : State} (first : s.self.phase.toNat = 0) : s.self.phase = 0 :=
  BitVec.eq_of_toNat_eq first

/-- The files, the table and the controller are not blanked out. -/
theorem unwritten_of_blanked_eq {i : Instr} {s t : State} (kept : t.blanked i = s.blanked i) :
    t.gpio = s.gpio ∧ t.iomux = s.iomux ∧ t.pmreg = s.pmreg ∧ t.origValid = s.origValid ∧ t.origVal = s.origVal ∧
      t.constructed = s.constructed :=
  ⟨(congrArg State.gpio kept :), (congrArg State.iomux kept :), (congrArg State.pmreg kept :), (congrArg State.origValid kept :),
    (congrArg State.origVal kept :), (congrArg State.constructed kept :)⟩

/-- Writing back what was blanked out gives the state again. -/
theorem State.blanked_restore {i : Instr} (notInit : i ≠ .init) {s : State} (inRange : s.cur < s.ctxs.length) :
    ({ s.blanked i with lock := s.lock, draws := s.draws } : State).withSelf s.self = s := by
  simp [State.blanked, State.withSelf, notInit, State.self_eq inRange]

/-- But for INIT, nothing else than the lock, the draws and the context's own registers is blanked out. -/
theorem eq_withSelf_of_blanked_eq {i : Instr} (notInit : i ≠ .init) {s t : State} (inRange : s.cur < s.ctxs.length)
    (kept : t.blanked i = s.blanked i) : t = ({ s with lock := t.lock, draws := t.draws } : State).withSelf t.self := by
  have sameCur : t.cur = s.cur := (congrArg State.cur kept :)
  have sameLength : t.ctxs.length = s.ctxs.length := by
    have := congrArg (fun u => u.ctxs.length) kept
    simpa [State.blanked] using this
  calc
    t = ({ t.blanked i with lock := t.lock, draws := t.draws } : State).withSelf t.self :=
      (State.blanked_restore notInit (by omega)).symm
    _ = ({ s.blanked i with lock := t.lock, draws := t.draws } : State).withSelf t.self := by rw [kept]
    _ = ({ s with lock := t.lock, draws := t.draws } : State).withSelf t.self := by
      simp [State.blanked, State.withSelf, notInit]

/-! ### The two kinds of rows -/

/-- A row not after the last that can answer an error: it writes nothing but what is blanked out, and the lock stays on its way to
what it was or to free. -/
structure Harmless (i : Instr) (s t : State) : Prop where
  early : s.self.phase.toNat ≤ lastErrorRow i
  kept : t.blanked i = s.blanked i
  lock : s.self.busy = true → t.settledLock = s.settledLock ∨ t.settledLock = none

/-- A row not before the last that can answer an error, and no error: the command goes on beyond that row, or answers OK. -/
structure BeyondErrors (i : Instr) (s t : State) : Prop where
  late : lastErrorRow i ≤ s.self.phase.toNat
  goesOn : s.self.busy = true → t.self.busy = true → lastErrorRow i < t.self.phase.toNat
  endsOk : s.self.busy = true → t.self.busy = false → t.self.rsp.status = 0

theorem Harmless.trans {i : Instr} {s u t : State} (h : Harmless i s u) (running : u.self.busy = true) (h' : Harmless i u t) :
    Harmless i s t where
  early := h.early
  kept := h'.kept.trans h.kept
  lock := fun r => by
    rcases h'.lock running with same | free
    · rw [same]
      exact h.lock r
    · exact .inr free

/-- `u` is on the way from `s` to the end of a row of `i`: the row still runs, and has written only what is blanked out, not the
lock. -/
structure OnTheWay (i : Instr) (s u : State) : Prop where
  kept : u.blanked i = s.blanked i
  lock : u.lock = s.lock
  cur : u.cur = s.cur
  running : s.self.busy = true → u.self.busy = true

theorem OnTheWay.refl (i : Instr) (s : State) : OnTheWay i s s := ⟨rfl, rfl, rfl, id⟩

theorem OnTheWay.drew (i : Instr) (s : State) : OnTheWay i s s.drew := ⟨rfl, rfl, rfl, id⟩

theorem upd_running {u : State} {f : Context → Context} (running : u.self.busy = true)
    (keepsBusy : ∀ c, (f c).busy = c.busy := by exact fun _ => rfl) : (u.upd f).self.busy = true := by
  rw [State.upd_self (State.cur_lt_of_busy running), keepsBusy, running]

theorem OnTheWay.upd {i : Instr} {s u : State} (way : OnTheWay i s u) {f : Context → Context}
    (keepsBusy : ∀ c, (f c).busy = c.busy := by exact fun _ => rfl) : OnTheWay i s (u.upd f) where
  kept := (State.blanked_upd i u f).trans way.kept
  lock := way.lock
  cur := way.cur
  running := fun r => upd_running (way.running r) keepsBusy

/-- All that a read can answer a next state with: the row goes on, with some byte. -/
theorem memRead_onTheWay {s t : State} {a : Nat} {k : Byte → State → Result} (i : Instr) (h : memRead s a k = .next t) :
    ∃ b u, OnTheWay i s u ∧ k b u = .next t := by
  rcases memRead_next h with ⟨_, _, h⟩ | ⟨_, _, h⟩
  · exact ⟨_, _, .drew i s, h⟩
  · exact ⟨_, _, .refl i s, h⟩

section Rows

variable {i : Instr} {s u t : State}

/-! ### The ends of a row before the command's first write -/

theorem harmless_held (early : s.self.phase.toNat ≤ lastErrorRow i) : Harmless i s s :=
  ⟨early, rfl, fun _ => .inl rfl⟩

/-- The first row may answer, whatever the status: the lock is not its own. -/
theorem harmless_respond (first : s.self.phase.toNat = 0) {st : Status} {d : Data}
    (way : OnTheWay i s u := by exact ⟨rfl, rfl, rfl, id⟩) : Harmless i s (u.respond st d) where
  early := first.trans_le (Nat.zero_le _)
  kept := (State.blanked_upd i u _).trans way.kept
  lock := fun running => .inl <| by
    have ended : (u.respond st d).self.busy = false := by rw [State.respond_self (State.cur_lt_of_busy (way.running running))]
    rw [State.settledLock_of_idle ended, State.settledLock_of_first (State.eq_zero_of_toNat_phase first)]
    exact way.lock

/-- `raise` frees the lock if the context holds it (R214). -/
theorem harmless_raise (early : s.self.phase.toNat ≤ lastErrorRow i) {st : Status} {d : Data}
    (way : OnTheWay i s u := by exact ⟨rfl, rfl, rfl, id⟩) : Harmless i s (u.raise st d) where
  early := early
  kept := (State.blanked_upd i _ _).trans way.kept
  lock := fun running => by
    have ended : (u.raise st d).self.busy = false := by rw [State.raise_self (State.cur_lt_of_busy (way.running running))]
    rw [State.settledLock_of_idle ended, State.raise_lock, way.lock, way.cur]
    split
    · exact .inr rfl
    · next notHeld => exact .inl (State.settledLock_of_not_held notHeld).symm

/-- A row that ends with a later one to run next, the lock as it was. -/
theorem harmless_upd (early : s.self.phase.toNat ≤ lastErrorRow i) {f : Context → Context} (moves : ∀ c, (f c).phase ≠ 0)
    (way : OnTheWay i s u := by exact ⟨rfl, rfl, rfl, id⟩) (keepsBusy : ∀ c, (f c).busy = c.busy := by exact fun _ => rfl) :
    Harmless i s (u.upd f) where
  early := early
  kept := (way.upd keepsBusy).kept
  lock := fun running => by
    have running' : u.self.busy = true := way.running running
    have moved : (u.upd f).self.phase ≠ 0 := by
      rw [State.upd_self (State.cur_lt_of_busy running')]
      exact moves _
    by_cases held : s.lock = some s.cur
    · exact .inr (State.settledLock_of_held (upd_running running' keepsBusy) moved (by
        rw [State.upd_lock, State.upd_cur, way.lock, way.cur, held]))
    · rw [State.settledLock_of_not_held held, State.settledLock_of_not_held (s := u.upd f) (by
        rwa [State.upd_lock, State.upd_cur, way.lock, way.cur])]
      exact .inl way.lock

/-- `Acquire`: the lock was free, and an error from the next row on frees it again. -/
theorem harmless_acquire (early : s.self.phase.toNat ≤ lastErrorRow i) {p : BitVec 4} (moves : p ≠ 0)
    (h : acquire s (fun s => .next (s.goto p)) = .next t) : Harmless i s t := by
  rcases acquire_next h with ⟨_, h⟩ | ⟨_, rfl⟩
  · cases h
    refine ⟨early, State.blanked_upd i _ _, fun running => .inr ?_⟩
    refine State.settledLock_of_held (upd_running running) ?_ rfl
    rwa [State.goto_self (s := s.setLock (some s.cur)) (State.cur_lt_of_busy running)]
  · exact harmless_held early

/-- A first row behind the dispatch check of R95, whose refusal is harmless. -/
theorem harmless_or_of_needsController (first : s.self.phase.toNat = 0) {r : Result} {P : Prop}
    (h : needsController s r = .next t) (passed : r = .next t → Harmless i s t ∨ P) : Harmless i s t ∨ P := by
  rcases needsController_next h with ⟨_, h⟩ | ⟨_, rfl⟩
  · exact passed h
  · exact .inl (harmless_respond first)

/-- The first row of the commands that take the lock there. -/
theorem harmless_acquireRow (first : s.self.phase.toNat = 0)
    (h : needsController s (acquire s fun s => .next (s.goto 1)) = .next t) : Harmless i s t := by
  rcases needsController_next h with ⟨_, h⟩ | ⟨_, rfl⟩
  · exact harmless_acquire (first.trans_le (Nat.zero_le _)) (by decide) h
  · exact harmless_respond first

theorem harmless_readPin (early : s.self.phase.toNat ≤ lastErrorRow i) {pin : Byte} {p : BitVec 4} (moves : p ≠ 0)
    (h : readPin pin p s = .next t) : Harmless i s t := by
  obtain ⟨b, u, way, h⟩ := memRead_onTheWay i h
  cases h
  exact harmless_upd early (fun _ => moves) way

/-! ### The ends of a row after which the command cannot fail -/

theorem beyond_respond (late : lastErrorRow i ≤ s.self.phase.toNat) {d : Data}
    (running : s.self.busy = true → u.self.busy = true := by exact id) : BeyondErrors i s (u.respond .ok d) := by
  have answered (r : s.self.busy = true) := State.respond_self (State.cur_lt_of_busy (running r)) .ok d
  refine ⟨late, fun r busy => ?_, fun r _ => ?_⟩
  · rw [answered r] at busy
    exact absurd busy Bool.false_ne_true
  · rw [answered r]
    rfl

theorem beyond_upd (late : lastErrorRow i ≤ s.self.phase.toNat) {f : Context → Context}
    (moves : lastErrorRow i < (f u.self).phase.toNat) (running : s.self.busy = true → u.self.busy = true := by exact id)
    (keepsBusy : ∀ c, (f c).busy = c.busy := by exact fun _ => rfl) : BeyondErrors i s (u.upd f) := by
  refine ⟨late, fun r _ => ?_, fun r ended => ?_⟩
  · rwa [State.upd_self (State.cur_lt_of_busy (running r))]
  · rw [upd_running (running r) keepsBusy] at ended
    exact absurd ended.symm Bool.false_ne_true

theorem beyond_releaseOk (late : lastErrorRow i ≤ s.self.phase.toNat) {d : Data} (h : releaseOk u d = .next t)
    (running : s.self.busy = true → u.self.busy = true := by exact id) : BeyondErrors i s t := by
  obtain ⟨_, h⟩ := release_next h
  cases h
  exact beyond_respond late running

theorem beyond_readPin (late : lastErrorRow i ≤ s.self.phase.toNat) {pin : Byte} {p : BitVec 4} (moves : lastErrorRow i < p.toNat)
    (h : readPin pin p s = .next t) : BeyondErrors i s t := by
  obtain ⟨b, u, way, h⟩ := memRead_onTheWay i h
  cases h
  exact beyond_upd late moves way.running

theorem beyond_writePin (late : lastErrorRow i ≤ s.self.phase.toNat) {pin v : Byte} {p : BitVec 4} (moves : lastErrorRow i < p.toNat)
    (h : writePin pin v p s = .next t) : BeyondErrors i s t := by
  obtain ⟨_, _, h⟩ := memWrite_next h
  cases h
  exact beyond_upd late moves

/-- The override gate stands at the last row that can answer an error: it refuses, or writes, or has nothing to write. -/
theorem harmless_or_beyond_of_changeDirection (row : s.self.phase.toNat = lastErrorRow i) {pin v : Byte} {p : BitVec 4}
    (moves : lastErrorRow i < p.toNat) (h : changeDirection pin v p s = .next t) : Harmless i s t ∨ BeyondErrors i s t := by
  unfold changeDirection at h
  split at h
  · exact .inr (beyond_releaseOk row.ge h upd_running)
  · split at h
    · cases h
      exact .inl (harmless_raise row.le (OnTheWay.refl i s).upd)
    · exact .inr (beyond_writePin row.ge moves h)

end Rows

/-! ### The law, command by command -/

section Commands

variable {s t : State}

theorem execReq_harmless_or_beyond {i : Byte} (h : execReq i s = .next t) :
    Harmless (.req i) s t ∨ BeyondErrors (.req i) s t := by
  unfold execReq at h
  split at h
  next row => exact .inl (harmless_acquireRow row h)
  next row => exact .inl (harmless_readPin (by simp [row]) (by decide) h)
  next row =>
    split at h
    · cases h
      exact .inl (harmless_raise row.le)
    · exact .inr (beyond_releaseOk row.ge h)
  next => cases h

theorem execFree_harmless_or_beyond {i : Byte} (h : execFree i s = .next t) :
    Harmless (.free i) s t ∨ BeyondErrors (.free i) s t := by
  unfold execFree at h
  split at h
  next row => exact .inl (harmless_acquireRow row h)
  next row =>
    split at h
    · exact .inr (beyond_writePin row.ge (by simp) h)
    · cases h
      exact .inl (harmless_raise row.le)
  next row => exact .inr (beyond_releaseOk (by simp [row]) h)
  next => cases h

/-- GETL and GETD answer at their first row. -/
theorem read_and_respond_harmless {i : Instr} (first : s.self.phase.toNat = 0) {a : Nat} {answer : Params → Byte → Data}
    (h : (needsController s <| memRead s a fun b s =>
      .next ((s.upd fun c => { c with b := b }).respond .ok (answer s.params b))) = .next t) :
    Harmless i s t ∨ BeyondErrors i s t := by
  refine harmless_or_of_needsController first h fun h => ?_
  obtain ⟨b, u, way, h⟩ := memRead_onTheWay i h
  cases h
  exact .inl (harmless_respond first way.upd)

theorem execGetl_harmless_or_beyond {i : Byte} (h : execGetl i s = .next t) :
    Harmless (.getl i) s t ∨ BeyondErrors (.getl i) s t := by
  unfold execGetl at h
  split at h
  next row => exact read_and_respond_harmless row (answer := fun p b => placed 0 (levelNumber (readLevel p b))) h
  next => cases h

theorem execGetd_harmless_or_beyond {i : Byte} (h : execGetd i s = .next t) :
    Harmless (.getd i) s t ∨ BeyondErrors (.getd i) s t := by
  unfold execGetd at h
  split at h
  next row => exact read_and_respond_harmless row (answer := fun p b => placed 0 (directionNumber (directionOf p b))) h
  next => cases h

theorem execSetl_harmless_or_beyond {i : Byte} {v : Bool} (h : execSetl i v s = .next t) :
    Harmless (.setl i v) s t ∨ BeyondErrors (.setl i v) s t := by
  unfold execSetl at h
  split at h
  next row => exact .inl (harmless_acquireRow row h)
  next => exact .inr (beyond_readPin (Nat.zero_le _) (by simp) h)
  next =>
    split at h
    · exact .inr (beyond_writePin (Nat.zero_le _) (by simp) h)
    · exact .inr (beyond_releaseOk (Nat.zero_le _) h)
  next => exact .inr (beyond_releaseOk (Nat.zero_le _) h)
  next => cases h

theorem execDout_harmless_or_beyond {i : Byte} {v : Bool} (h : execDout i v s = .next t) :
    Harmless (.dout i v) s t ∨ BeyondErrors (.dout i v) s t := by
  unfold execDout at h
  split at h
  next row =>
    refine harmless_or_of_needsController row h fun h => .inl ?_
    obtain ⟨b, u, way, h⟩ := memRead_onTheWay (.dout i v) h
    dsimp only at h
    have way : OnTheWay (.dout i v) s (u.upd fun c => { c with b := b }) := way.upd
    split at h
    · cases h
      exact harmless_respond row way
    · cases h
      exact harmless_upd (by simp [row]) (by simp) way
  next row => exact .inl (harmless_acquire (by simp [row]) (by decide) h)
  next row => exact .inl (harmless_readPin (by simp [row]) (by decide) h)
  next row => exact harmless_or_beyond_of_changeDirection row (by simp) h
  next row => exact .inr (beyond_releaseOk (by simp [row]) h)
  next => cases h

theorem execDin_harmless_or_beyond {i : Byte} (h : execDin i s = .next t) :
    Harmless (.din i) s t ∨ BeyondErrors (.din i) s t := by
  unfold execDin at h
  split at h
  next row => exact .inl (harmless_acquireRow row h)
  next row => exact .inl (harmless_readPin (by simp [row]) (by decide) h)
  next row => exact harmless_or_beyond_of_changeDirection row (by simp) h
  next row => exact .inr (beyond_releaseOk (by simp [row]) h)
  next => cases h

theorem execDiag_harmless_or_beyond {i : Byte} (h : execDiag i s = .next t) :
    Harmless (.diag i) s t ∨ BeyondErrors (.diag i) s t := by
  unfold execDiag at h
  split at h
  next row =>
    refine harmless_or_of_needsController row h fun h => ?_
    split at h
    · cases h
      exact .inl (harmless_respond row)
    · cases h
      exact .inr (beyond_upd (Nat.zero_le _) (by simp))
  next =>
    obtain ⟨b, u, way, h⟩ := memRead_onTheWay (.diag i) h
    cases h
    exact .inr (beyond_upd (Nat.zero_le _) (by simp) way.running)
  next =>
    obtain ⟨m, u, way, h⟩ := memRead_onTheWay (.diag i) h
    cases h
    exact .inr (beyond_respond (Nat.zero_le _) way.upd.running)
  next => cases h

theorem execDump_harmless_or_beyond (h : execDump s = .next t) : Harmless .dump s t ∨ BeyondErrors .dump s t := by
  unfold execDump at h
  split at h
  next row =>
    refine harmless_or_of_needsController row h fun h => .inr ?_
    cases h
    exact beyond_upd (Nat.zero_le _) (by simp)
  next row =>
    dsimp only at h
    split at h
    · cases h
      exact .inr (beyond_respond (Nat.zero_le _))
    · split at h
      · cases h
        exact .inr (beyond_upd (Nat.zero_le _) row.ge)
      · cases h
        exact .inr (beyond_upd (Nat.zero_le _) (by simp))
  next =>
    obtain ⟨b, u, way, h⟩ := memRead_onTheWay .dump h
    cases h
    exact .inr (beyond_upd (Nat.zero_le _) (by simp) way.running)
  next =>
    obtain ⟨m, u, way, h⟩ := memRead_onTheWay .dump h
    cases h
    exact .inr (beyond_upd (Nat.zero_le _) (by simp) way.running)
  next => cases h

/-- INIT's rows but the last write only what is blanked out for INIT. -/
theorem execInit_harmless_or_beyond (h : execInit s = .next t) : Harmless .init s t ∨ BeyondErrors .init s t := by
  unfold execInit at h
  split at h
  next row =>
    rcases needsNoController_next h with ⟨_, h⟩ | ⟨_, rfl⟩
    · split at h
      · cases h
        exact .inl (harmless_upd (by simp [row]) (by simp))
      · cases h
        exact .inl (harmless_respond row)
    · exact .inl (harmless_respond row)
  next row =>
    obtain ⟨_, h⟩ := ioWrite_next h
    cases h
    exact .inl (harmless_upd (by simp [row]) (by simp))
  next row =>
    obtain ⟨_, h⟩ := ioRead_next h
    cases h
    refine .inl (harmless_upd (by simp [row]) fun _ => ?_)
    dsimp only
    split <;> decide
  next row =>
    have early : s.self.phase.toNat ≤ lastErrorRow .init := by simp [row]
    split at h
    · cases h
      exact .inl (harmless_raise early)
    · split at h
      · cases h
        exact .inl (harmless_raise early)
      · cases h
        exact .inl (harmless_upd early (by simp))
  next row =>
    have early : s.self.phase.toNat ≤ lastErrorRow .init := by simp [row]
    rw [regionReserve_eq] at h
    split at h
    · cases h
      exact .inl (harmless_upd early (by simp))
    · cases h
      exact .inl (harmless_raise early)
  next row =>
    have early : s.self.phase.toNat ≤ lastErrorRow .init := by simp [row]
    rw [regionReserve_eq] at h
    split at h
    · cases h
      exact .inl (harmless_upd early (by simp))
    · cases h
      exact .inl (harmless_upd early (by simp))
  next row =>
    cases h
    exact .inl (harmless_raise row.le)
  next row =>
    cases h
    exact .inr (beyond_respond (by simp [row]))
  next => cases h

theorem execTeardown_harmless_or_beyond (h : execTeardown s = .next t) :
    Harmless .teardown s t ∨ BeyondErrors .teardown s t := by
  unfold execTeardown at h
  split at h
  next row =>
    refine harmless_or_of_needsController row h fun h => ?_
    rcases acquire_next h with ⟨_, h⟩ | ⟨_, rfl⟩
    · cases h
      exact .inr (beyond_upd (Nat.zero_le _) (by simp))
    · exact .inl (harmless_held row.le)
  next row =>
    dsimp only at h
    split at h
    · cases h
      exact .inr (beyond_upd (Nat.zero_le _) (by simp))
    · split at h
      · obtain ⟨_, _, h⟩ := memWrite_next h
        cases h
        exact .inr (beyond_upd (Nat.zero_le _) row.ge)
      · cases h
        exact .inr (beyond_upd (Nat.zero_le _) row.ge)
  next =>
    obtain ⟨_, h⟩ := release_next h
    cases h
    exact .inr (beyond_upd (Nat.zero_le _) (by simp))
  next =>
    cases h
    exact .inr (beyond_upd (Nat.zero_le _) (by simp))
  next =>
    cases h
    exact .inr (beyond_respond (Nat.zero_le _))
  next => cases h

theorem respondCodec_harmless {i : Instr} {d : Data} (h : respondCodec s d = .next t) : Harmless i s t := by
  unfold respondCodec at h
  split at h
  next row =>
    cases h
    exact harmless_respond row
  next => cases h

/-- Every row of every command is of one of the two kinds. -/
theorem exec_harmless_or_beyond {i : Instr} (h : exec i s = .next t) : Harmless i s t ∨ BeyondErrors i s t := by
  cases i with
  | req i => exact execReq_harmless_or_beyond h
  | free i => exact execFree_harmless_or_beyond h
  | getl i => exact execGetl_harmless_or_beyond h
  | getd i => exact execGetd_harmless_or_beyond h
  | setl i v => exact execSetl_harmless_or_beyond h
  | dout i v => exact execDout_harmless_or_beyond h
  | din i => exact execDin_harmless_or_beyond h
  | diag i => exact execDiag_harmless_or_beyond h
  | dump => exact execDump_harmless_or_beyond h
  | init => exact execInit_harmless_or_beyond h
  | teardown => exact execTeardown_harmless_or_beyond h
  | down _ | dpull _ | dmux _ | isout _ | rlvl _ | sout _ _ | sin _ => exact .inl (respondCodec_harmless h)

end Commands

/-! ### A command that answers an error -/

/-- The row that answers an error is harmless. -/
theorem exec_harmless_of_error {i : Instr} {s t : State} (h : exec i s = .next t) (running : s.self.busy = true)
    (ended : t.self.busy = false) (error : t.self.rsp.status ≠ 0) : Harmless i s t :=
  (exec_harmless_or_beyond h).resolve_right fun beyond => error (beyond.endsOk running ended)

/-- So is every row the command took before: a row of the other kind leads beyond the last row that can answer an error. -/
theorem runAlone_harmless_of_error {n : Nat} {i : Instr} {s t : State} (h : runAlone n i s = .next t) (running : s.self.busy = true)
    (ended : t.self.busy = false) (error : t.self.rsp.status ≠ 0) : Harmless i s t := by
  induction n generalizing s with
  | zero =>
    cases h
    exact absurd (ended.symm.trans running) Bool.false_ne_true
  | succ n ih =>
    unfold runAlone at h
    split at h
    next u row =>
      split at h
      next goesOn =>
        have rest : Harmless i u t := ih h goesOn
        have notBeyond : ¬BeyondErrors i s u := fun beyond => (beyond.goesOn running goesOn).not_ge rest.early
        exact ((exec_harmless_or_beyond row).resolve_right notBeyond).trans goesOn rest
      next =>
        cases h
        exact exec_harmless_of_error row running ended error
    next => cases h
    next => cases h

/-- Settles O43. An accepted command is at its first row, where the settled lock is the lock; and a row before one that answers an
error stands before the last that can. -/
theorem failureNeverWrites : Obligations.FailureNeverWrites := by
  refine ⟨fun n i s t ⟨inRange, running, first⟩ h ended error => ?runAlone,
    fun i s t running h ended error => ⟨?errorRow, ?earlier⟩⟩
  case runAlone =>
    have harmless := runAlone_harmless_of_error h running ended error
    obtain ⟨gpio, iomux, pmreg, origValid, origVal, constructed⟩ := unwritten_of_blanked_eq harmless.kept
    have lock := harmless.lock running
    rw [State.settledLock_of_idle ended, State.settledLock_of_first first] at lock
    exact ⟨gpio, iomux, pmreg, origValid, origVal, constructed, lock,
      fun notInit => eq_withSelf_of_blanked_eq notInit inRange harmless.kept⟩
  case errorRow => exact unwritten_of_blanked_eq (exec_harmless_of_error h running ended error).kept
  case earlier =>
    intro u w before h'
    have beforeLast := before.trans_le (exec_harmless_of_error h running ended error).early
    have harmless : Harmless i u w := (exec_harmless_or_beyond h').resolve_right fun beyond => beforeLast.not_ge beyond.late
    obtain ⟨gpio, _, _, origValid, origVal, _⟩ := unwritten_of_blanked_eq harmless.kept
    exact ⟨gpio, origValid, origVal⟩

end Sys2Proof.Machine
end

section
/-! PROOFS of the diagnostics register reader (spec/43_diagnostics.md). First the words the spec prints, the gaps and the event index
(R192, R193); then the record (R191): its fields lie apart, so a window of the word that is one field's place shows that field alone.
Last, one equation for each row of DIAG and DUMP (R194, R195); the statements choose a branch of a row. -/

namespace Sys2Proof.Machine

/-! ### The words the spec prints (R93, R194) -/

/-- Settles O4: six closed evaluations of the decoder. -/
theorem printedWordsDecode : Obligations.PrintedWordsDecode :=
  ⟨rfl, rfl, rfl, rfl, rfl, rfl⟩

/-! ### Gaps, skipped pins and event indices (R192, R193) -/

theorem inGap_iff (i : Nat) :
    inGap i = true ↔ (68 ≤ i ∧ i ≤ 95) ∨ (120 ≤ i ∧ i ≤ 127) ∨ (151 ≤ i ∧ i ≤ 159) ∨ (229 ≤ i ∧ i ≤ 255) := by
  simp only [inGap, Bool.or_eq_true, Bool.and_eq_true, decide_eq_true_eq, or_assoc]

theorem State.skip_iff (s : State) (i : Nat) : s.skip i = true ↔ inGap i = true ∧ s.valid i = false := by
  rw [State.skip, Bool.and_eq_true, Bool.not_eq_true']

theorem hasGpe_eq (i : Nat) : hasGpe i = decide (96 ≤ i ∧ i ≤ 119) := (Bool.decide_and ..).symm

theorem gpeIndex_eq (i : Nat) : gpeIndex i = if 96 ≤ i ∧ i ≤ 119 then BitVec.ofNat 5 (i - 96) else 0 := by
  simp only [gpeIndex, hasGpe_eq, decide_eq_true_eq]

/-- Settles O31: the count is of a closed list; an event index is below 24, so five bits hold it. -/
theorem gapsAndEvents : Obligations.GapsAndEvents := by
  refine ⟨by decide, inGap_iff, State.skip_iff, fun i low high => ⟨?_, ?_⟩⟩
  · rw [hasGpe_eq]
    exact decide_eq_true ⟨low, high⟩
  · rw [gpeIndex_eq, if_pos ⟨low, high⟩]
    exact Nat.mod_eq_of_lt (by omega)

/-! ### A window of a word of placed fields (R191) -/

section Window

variable {lo start len w : Nat} {v : BitVec w}

theorem extractLsb'_placed (fits : lo + w ≤ 64) : (placed lo v).extractLsb' lo w = v := by
  ext k hk
  have inWord : lo + k < 64 := by omega
  simp [placed, inWord, BitVec.getLsbD_eq_getElem hk]

theorem extractLsb'_placed_of_apart (apart : start + len ≤ lo ∨ lo + w ≤ start) :
    (placed lo v).extractLsb' start len = 0#len := by
  ext k hk
  rcases apart with below | above
  · have under : start + k < lo := by omega
    simp [placed, under]
  · have past : v.getLsbD (start + k - lo) = false := BitVec.getLsbD_of_ge _ _ (by omega)
    simp [placed, past]

theorem getElem_of_extractLsb' {d : Data} {k : Nat} (hk : k < 64) {b : Bool} (h : d.extractLsb' k 1 = BitVec.ofBool b) :
    d[k] = b := by
  rw [← BitVec.getLsbD_eq_getElem, BitVec.getLsbD_eq_extractLsb', h]
  cases b <;> rfl

end Window

/-- R191's fields, each in its own window, under any layout and code tables; the windows left are 0. -/
theorem record_windows (p : Params) (i : Nat) (r : Bool) (g m : Byte) :
    let d := record p i r g m
    d.extractLsb' 0 8 = BitVec.ofNat 8 i ∧
    d.extractLsb' 8 1 = BitVec.ofBool r ∧
    d.extractLsb' 9 1 = 0 ∧
    d.extractLsb' 10 1 = directionNumber (directionOf p g) ∧
    d.extractLsb' 11 1 = levelNumber (readLevel p g) ∧
    d.extractLsb' 12 2 = pullNumber (decodePull p g) ∧
    d.extractLsb' 14 2 = muxNumber (decodeMux p m) ∧
    d.extractLsb' 16 2 = ownershipNumber (decodeOwnership p g) ∧
    d.extractLsb' 18 1 = BitVec.ofBool (decodeOwnership p g ≠ .none) ∧
    d.extractLsb' 19 1 = BitVec.ofBool (hasGpe i) ∧
    d.extractLsb' 20 5 = gpeIndex i ∧
    d.extractLsb' 25 7 = 0 ∧
    d.extractLsb' 32 8 = g ∧
    d.extractLsb' 40 8 = m ∧
    d.extractLsb' 48 16 = 0 := by
  simp (disch := omega) only [record, BitVec.extractLsb'_or, extractLsb'_placed, extractLsb'_placed_of_apart, BitVec.or_zero,
    BitVec.zero_or, BitVec.ofNat_eq_ofNat, and_self]

/-! ### The numbers of a record under the defaults (R99) -/

theorem directionNumber_directionOf (p : Params) (b : Byte) :
    directionNumber (directionOf p b) = BitVec.ofBool (b.getLsbD p.layout.oebBit) := by
  rw [directionOf, isOutputEnabled]
  cases b.getLsbD p.layout.oebBit <;> rfl

theorem levelNumber_readLevel (p : Params) (b : Byte) :
    levelNumber (readLevel p b) = BitVec.ofBool (b.getLsbD p.layout.inBit) := by
  rw [readLevel]
  cases b.getLsbD p.layout.inBit <;> rfl

/-- The default code table read by R99's numbers: unlike the owner's, a pull's number is not its field value. -/
theorem pullNumber_decodePull {p : Params} (codes : p.pullCode = Params.default.pullCode) (b : Byte) :
    pullNumber (decodePull p b) =
      match (b.extractLsb' p.layout.pullLsb 2).toNat with | 0 => 1 | 1 => 0 | 2 => 3 | _ => 2 := by
  rw [decodePull, codes]
  generalize b.extractLsb' p.layout.pullLsb 2 = field
  revert field
  decide

theorem decodeOwnership_ne_none {p : Params} (codes : p.ownCode = Params.default.ownCode) (b : Byte) :
    decide (decodeOwnership p b ≠ .none) = (b.extractLsb' p.layout.ownLsb 2 != 0#2) := by
  rw [decodeOwnership, codes]
  generalize b.extractLsb' p.layout.ownLsb 2 = field
  revert field
  decide

/-! ### The record of a skipped pin (R191) -/

theorem skippedRecord_eq (i : Nat) : skippedRecord i = 0x200 ||| (BitVec.ofNat 8 i).setWidth 64 := by
  rw [skippedRecord, placed_zero, BitVec.or_comm]
  rfl

theorem toNat_skippedRecord {i : Nat} (inBank : i < 256) : (skippedRecord i).toNat = 2 ^ 9 + i := by
  have pin : ((BitVec.ofNat 8 i).setWidth 64).toNat = i := by
    rw [BitVec.toNat_setWidth_of_le (by decide), BitVec.toNat_ofNat, Nat.mod_eq_of_lt inBank]
  have below : i < 2 ^ 9 := by omega
  calc
    (skippedRecord i).toNat = 2 ^ 9 * 1 ||| i := by rw [skippedRecord_eq, BitVec.toNat_or, pin]; rfl
    _ = 2 ^ 9 * 1 + i := (Nat.two_pow_add_eq_or_of_lt below 1).symm
    _ = 2 ^ 9 + i := by rw [Nat.mul_one]

/-- Settles O30: each field is its window of the record, with the number the default layout and tables give it. -/
theorem recordFields : Obligations.RecordFields := by
  refine ⟨fun i => toNat_skippedRecord, fun p i r g m _ layout ownCodes pullCodes => ?_⟩
  obtain ⟨pin, requested, skipped, direction, level, pull, mux, owner, owned, gpe, gpeNumber, gapBelow, gpioByte, iomuxByte,
    gapAbove⟩ := record_windows p i r g m
  rw [directionNumber_directionOf, layout] at direction
  rw [levelNumber_readLevel, layout] at level
  rw [pullNumber_decodePull pullCodes, layout, toNat_twoBitField] at pull
  rw [muxNumber_decodeMux, layout] at mux
  rw [ownershipNumber_decodeOwnership ownCodes, layout] at owner
  rw [decodeOwnership_ne_none ownCodes, layout] at owned
  rw [hasGpe_eq] at gpe
  rw [gpeIndex_eq] at gpeNumber
  exact ⟨pin, getElem_of_extractLsb' _ requested, getElem_of_extractLsb' _ skipped, getElem_of_extractLsb' _ direction,
    getElem_of_extractLsb' _ level, pull, mux, owner, getElem_of_extractLsb' _ owned, getElem_of_extractLsb' _ gpe, gpeNumber,
    gapBelow, gpioByte, iomuxByte, gapAbove⟩

/-! ### DIAG, row by row (R194) -/

section Diag

variable {i : Byte} {s : State}

theorem exec_diag_check (row : AtRow s 0) (built : s.constructed = true) :
    exec (.diag i) s =
      if s.skip i.toNat then .next (s.respond .ok (skippedRecord i.toNat))
      else .next (s.withSelf { s.self with req := s.valid i.toNat, phase := 1 }) := by
  unfold exec execDiag
  rw [row.phase]
  exact needsController_of_constructed built _

theorem exec_diag_readGpio (row : AtRow s 1) :
    exec (.diag i) s = .next (s.drew.withSelf { s.self with b := s.gpioSampled i.toNat, phase := 2 }) := by
  unfold exec execDiag
  rw [row.phase]
  exact memRead_pin i s _

theorem exec_diag_readIomux (row : AtRow s 2) (apart : s.banksApart) :
    exec (.diag i) s = .next (s.withSelf
      { s.self with
        m := s.iomux.read i.toNat
        rsp := ⟨0, record s.params i.toNat s.self.req s.self.b (s.iomux.read i.toNat)⟩
        busy := false }) := by
  unfold exec execDiag
  rw [row.phase]
  refine (memRead_iomuxAddr s i.isLt apart _).trans ?_
  rw [State.respond_eq_withSelf, State.upd_self row.curExists, State.upd_withSelf]
  rfl

end Diag

/-- Settles O25: the first row answers for a skipped pin or goes on to the two reads. -/
theorem diagRows : Obligations.DiagRows := by
  intro i s
  refine ⟨fun row built skipped => ?skipped, fun row built reported => ?reported, exec_diag_readGpio, exec_diag_readIomux⟩
  case skipped =>
    rw [exec_diag_check row built, if_pos skipped, skippedRecord_eq, BitVec.ofNat_toNat, BitVec.setWidth_eq]
    rfl
  case reported => rw [exec_diag_check row built, if_neg (ne_true_of_eq_false reported)]

/-! ### DUMP, row by row (R195) -/

/-- The loop counter compared as a number. -/
theorem toNat_eq_nPin_iff {k : BitVec 9} : k.toNat = Config.nPin ↔ k = 256 := BitVec.toNat_inj (y := 256)

section Dump

variable {s : State}

theorem exec_dump_begin (row : AtRow s 0) (built : s.constructed = true) :
    exec .dump s = .next (s.withSelf { s.self with k := 0, n := 0, out := [], phase := 1 }) := by
  unfold exec execDump
  rw [row.phase]
  exact needsController_of_constructed built _

/-- The head of the loop over the pins. -/
theorem exec_dump_loop (row : AtRow s 1) :
    exec .dump s =
      if s.self.k.toNat = Config.nPin then .next (s.respond .ok (placed 0 s.self.n))
      else if s.skip s.self.k.toNat then .next (s.withSelf { s.self with k := s.self.k + 1 })
      else .next (s.withSelf { s.self with req := s.valid s.self.k.toNat, phase := 2 }) := by
  unfold exec execDump
  rw [row.phase]
  rfl

theorem exec_dump_readGpio (row : AtRow s 2) (inBank : s.self.k.toNat < 256) :
    exec .dump s = .next (s.drew.withSelf { s.self with b := s.gpioSampled s.self.k.toNat, phase := 3 }) := by
  unfold exec execDump
  rw [row.phase]
  exact memRead_gpioAddr s inBank _

theorem exec_dump_readIomux (row : AtRow s 3) (inBank : s.self.k.toNat < 256) (apart : s.banksApart) :
    exec .dump s = .next (s.withSelf
      { s.self with
        m := s.iomux.read s.self.k.toNat
        out := s.self.out ++ [record s.params s.self.k.toNat s.self.req s.self.b (s.iomux.read s.self.k.toNat)]
        n := s.self.n + 1
        k := s.self.k + 1
        phase := 1 }) := by
  unfold exec execDump
  rw [row.phase]
  exact memRead_iomuxAddr s inBank apart _

end Dump

/-- Settles O26: the head of the loop has three branches, every other row one. -/
theorem dumpRows : Obligations.DumpRows := by
  intro s
  refine ⟨exec_dump_begin, fun row atEnd => ?answered, fun row inBank skipped => ?skipped, fun row inBank reported => ?reported,
    exec_dump_readGpio, exec_dump_readIomux⟩
  case answered =>
    rw [exec_dump_loop row, if_pos (toNat_eq_nPin_iff.2 atEnd), placed_zero]
    rfl
  case skipped => rw [exec_dump_loop row, if_neg (toNat_eq_nPin_iff.not.2 inBank), if_pos skipped]
  case reported =>
    rw [exec_dump_loop row, if_neg (toNat_eq_nPin_iff.not.2 inBank), if_neg (ne_true_of_eq_false reported)]

end Sys2Proof.Machine
end

section
/-! PROOFS about GLC's reset input (spec/70_reset_and_hazards.md R240). The event on the agenda runs `State.glcReset`; the contexts and
the table it leaves are read by `State.ctx` and `State.valid` at every index, the ones beyond the end included. -/

namespace Sys2Proof.Machine

theorem step_of_agenda {s : State} {e : Event} {rest : List Event} (h : s.agenda = e :: rest) :
    step s = takeTurn e (s.setAgenda rest) := by
  unfold step nextStep
  rw [h]

/-! ### What the reset leaves in GLC's registers (R45) -/

@[simp] theorem State.glcReset_ctx (s : State) (c : Nat) : s.glcReset.ctx c = Context.idle := by
  unfold State.ctx
  rw [List.getD_eq_getElem?_getD]
  exact List.getElem?_getD_replicate_default_eq _ _ c

@[simp] theorem State.glcReset_ctxs_length (s : State) : s.glcReset.ctxs.length = s.ctxs.length := List.length_replicate

@[simp] theorem State.glcReset_valid (s : State) (i : Nat) : s.glcReset.valid i = false := by
  have table : s.glcReset.origValid[i]? = if i < 256 then some false else none := Vector.getElem?_replicate
  unfold State.valid
  rw [table]
  split <;> rfl

/-- Settles O57: the step is `State.glcReset` of the state with the event taken off the agenda. -/
theorem resetInput : Obligations.ResetInput := by
  intro s rest next
  refine ⟨(s.setAgenda rest).glcReset, step_of_agenda next, rfl, rfl, rfl, rfl, rfl, State.glcReset_valid _,
    State.glcReset_ctxs_length _, fun c => ?idle, rfl, rfl, rfl, rfl, rfl, rfl⟩
  case idle =>
    rw [State.glcReset_ctx]
    exact ⟨rfl, rfl, rfl⟩

end Sys2Proof.Machine
end

section
/-! PROOFS of the round trip of the command words (spec/30_encoding.md R91, R93). -/

namespace Sys2Proof

theorem getLsbD_assemble (op : BitVec 5) (v : Bool) (arg : Byte) (k : Nat) :
    (assemble op v arg).getLsbD k =
      if k < 8 then arg.getLsbD k else if k < 9 then v else if k < 11 then false else op.getLsbD (k - 11) := by
  have bits := BitVec.getLsbD_append (x := op ++ 0#2 ++ BitVec.ofBool v) (y := arg) (i := k)
  have upper := BitVec.getLsbD_append (x := op ++ 0#2) (y := BitVec.ofBool v) (i := k - 8)
  have top := BitVec.getLsbD_append (x := op) (y := 0#2) (i := k - 8 - 1)
  rw [upper, top] at bits
  refine Eq.trans bits ?_
  split
  · rfl
  · split
    · simp [show k = 8 by omega]
    · by_cases reserved : k < 11
      · simp [show ¬k < 9 by omega, reserved, show k - 8 - 1 < 2 by omega]
      · simp [show ¬k < 9 by omega, reserved, show ¬k - 8 - 1 < 2 by omega, show k - 8 - 1 - 2 = k - 11 by omega]

/-- The fields of an assembled word are what it was assembled from. -/
theorem fieldsOf_assemble (op : BitVec 5) (v : Bool) (arg : Byte) : fieldsOf (assemble op v arg) = ⟨op, 0, v, arg⟩ := by
  have opField : (assemble op v arg).extractLsb' 11 5 = op := by
    ext k hk
    simp [getLsbD_assemble, show ¬11 + k < 8 by omega, show ¬11 + k < 9 by omega, BitVec.getLsbD_eq_getElem hk]
  have reserved : (assemble op v arg).extractLsb' 9 2 = 0 := by
    ext k hk
    simp [getLsbD_assemble, show ¬9 + k < 8 by omega, show 9 + k < 11 by omega]
  have value : (assemble op v arg).getLsbD 8 = v := getLsbD_assemble op v arg 8
  have argField : (assemble op v arg).extractLsb' 0 8 = arg := by
    ext k hk
    simp [getLsbD_assemble, hk]
  rw [fieldsOf, opField, reserved, value, argField]

/-- A word assembled with `z` = 0 is read by the opcode map. -/
theorem decode_assemble (op : BitVec 5) (v : Bool) (arg : Byte) : decode (assemble op v arg) = decodeOp ⟨op, 0, v, arg⟩ := by
  have fields := fieldsOf_assemble op v arg
  rw [decode_of_z_zero (by rw [fields]), fields]

theorem decode_encode (i : Instr) : decode (encode i) = .ok i := by
  cases i <;> exact (decode_assemble _ _ _).trans rfl

/-- Settles O1: the word of a command has the fields the opcode map reads that command by, and the map answers no other. -/
theorem decodeEncodeAgree : Obligations.DecodeEncodeAgree :=
  ⟨decode_encode, fun _ _ h => encode_of_decode h⟩

end Sys2Proof
end

section
/-! PROOFS' common ground: the phase tables as a relation (spec/40_codec.md to 43_diagnostics.md). One constructor for each branch of
a row, with the guard under which the row takes it; rows that several tables share are one constructor, and a small table says which
row of which command it is. `exec_row` says that a micro-step is always one of these; what every micro-step keeps is then a case
analysis of the relation, and no later proof opens a command's meaning again. -/

namespace Sys2Proof.Machine

/-! ### The registers of the moving context after a row -/

/-- The registers after `Respond` (R97). -/
def Context.answered (x : Context) (st : Status) (d : Data) : Context := { x with rsp := ⟨statusCode st, d⟩, busy := false }

/-- The registers with row `q` to run next (R41). -/
def Context.atRow (x : Context) (q : BitVec 4) : Context := { x with phase := q }

@[simp] theorem Context.answered_busy (x : Context) (st : Status) (d : Data) : (x.answered st d).busy = false := rfl
@[simp] theorem Context.answered_cmd (x : Context) (st : Status) (d : Data) : (x.answered st d).cmd = x.cmd := rfl
@[simp] theorem Context.answered_rsp (x : Context) (st : Status) (d : Data) : (x.answered st d).rsp = ⟨statusCode st, d⟩ := rfl
@[simp] theorem Context.atRow_busy (x : Context) (q : BitVec 4) : (x.atRow q).busy = x.busy := rfl
@[simp] theorem Context.atRow_cmd (x : Context) (q : BitVec 4) : (x.atRow q).cmd = x.cmd := rfl
@[simp] theorem Context.atRow_rsp (x : Context) (q : BitVec 4) : (x.atRow q).rsp = x.rsp := rfl
@[simp] theorem Context.atRow_phase (x : Context) (q : BitVec 4) : (x.atRow q).phase = q := rfl

/-- The lock as `raise` leaves it: freed if the running context holds it (R214). -/
def State.lockGivenUp (s : State) : State := s.setLock (if s.lock = some s.cur then none else s.lock)

theorem State.withSelf_self_eq (s : State) : s.withSelf s.self = s := by
  have same : s.ctxs.set s.cur s.self = s.ctxs := by
    by_cases inRange : s.cur < s.ctxs.length
    · rw [State.self_eq inRange, List.set_getElem_self]
    · exact List.set_eq_of_length_le (not_lt.mp inRange)
  exact congrArg (fun ctxs => { s with ctxs := ctxs }) same

/-- Two writes of the running context's registers are one, whether the context exists or not. -/
theorem State.withSelf_upd (s : State) (x : Context) (f : Context → Context) : (s.withSelf x).upd f = s.withSelf (f x) := by
  have same : (s.ctxs.set s.cur x).set s.cur (f (s.withSelf x).self) = s.ctxs.set s.cur (f x) := by
    by_cases inRange : s.cur < s.ctxs.length
    · rw [List.set_set]
      simp [State.self, State.ctx, inRange]
    · simp only [List.set_eq_of_length_le (not_lt.mp inRange)]
  exact congrArg (fun ctxs => { s with ctxs := ctxs }) same

theorem State.raise_withSelf (s : State) (x : Context) (st : Status) (d : Data) :
    (s.withSelf x).raise st d = s.lockGivenUp.withSelf (x.answered st d) :=
  s.lockGivenUp.withSelf_upd x fun c => c.answered st d

/-! ### Where the shared rows stand -/

/-- The row of a command that takes the lock (R77). -/
def acquireRow : Instr → Option Nat
  | .req _ | .free _ | .setl _ _ | .din _ | .teardown => some 0
  | .dout _ _ => some 1
  | _ => none

/-- The row of a command that reads its pin's byte and goes on, and the pin. -/
def readRow : Instr → Option (Nat × Byte)
  | .req pin | .setl pin _ | .din pin | .diag pin => some (1, pin)
  | .dout pin _ => some (2, pin)
  | _ => none

/-- The commands whose first row reads their pin's byte and answers. -/
def answersFirstRead : Instr → Option Byte
  | .getl pin | .getd pin | .dout pin _ => some pin
  | _ => none

/-- The rows that release the lock and answer OK, with nothing else to do. -/
def releaseRow : Instr → Nat → Bool
  | .setl _ _, p | .din _, p => p = 2 || p = 3
  | .dout _ _, p => p = 3 || p = 4
  | _, _ => false

/-- The row of a locked command that can refuse. -/
def refuseRow : Instr → Option Nat
  | .req _ | .din _ => some 2
  | .free _ => some 1
  | .dout _ _ => some 3
  | _ => none

/-! ### The rows -/

/-- `Row s i u x`: the row of command `i` that runs in state `s` makes the registers of its context `x` and everything else what it is
in `u`. -/
inductive Row (s : State) : Instr → State → Context → Prop
  /-- R120 -/
  | codec {i : Instr} {d : Data} (first : s.self.phase.toNat = 0) (unchecked : needsConstructed i = false) (notInit : i ≠ .init) :
      Row s i s (s.self.answered .ok d)
  /-- R95 -/
  | notReady {i : Instr} (first : s.self.phase.toNat = 0) (needs : needsConstructed i = true) (absent : s.constructed = false) :
      Row s i s (s.self.answered .notReady 0)
  /-- R77, log 12 -/
  | held {i : Instr} (row : acquireRow i = some s.self.phase.toNat) (taken : s.lock ≠ none) : Row s i s s.self
  | acquired {i : Instr} {q : BitVec 4} (row : acquireRow i = some s.self.phase.toNat) (notTeardown : i ≠ .teardown)
      (free : s.lock = none) (built : s.self.phase.toNat = 0 → s.constructed = true) (next : q.toNat = s.self.phase.toNat + 1) :
      Row s i (s.setLock (some s.cur)) (s.self.atRow q)
  | pinRead {i : Instr} {pin : Byte} {q : BitVec 4} (row : readRow i = some (s.self.phase.toNat, pin))
      (next : q.toNat = s.self.phase.toNat + 1) : Row s i s.drew { s.self with b := s.gpioSampled pin.toNat, phase := q }
  | released {i : Instr} {v : Byte} (row : releaseRow i s.self.phase.toNat = true) (owned : s.lock = some s.cur) :
      Row s i (s.setLock none) (({ s.self with t := v } : Context).answered .ok 0)
  | refused {i : Instr} {v : Byte} {st : Status} {d : Data} (row : refuseRow i = some s.self.phase.toNat) :
      Row s i s.lockGivenUp (({ s.self with t := v } : Context).answered st d)
  /-- R163 -/
  | reqRecorded {pin : Byte} (row : s.self.phase.toNat = 2) (owned : s.lock = some s.cur) :
      Row s (.req pin) ((s.saveOriginal pin.toNat s.self.b).setLock none) (s.self.answered .ok (placed 0 s.self.b))
  /-- R164 -/
  | freeRestored {pin : Byte} (row : s.self.phase.toNat = 1) (requested : s.valid pin.toNat = true) :
      Row s (.free pin) (s.storeGpio pin.toNat (s.saved pin.toNat)) { s.self with t := s.saved pin.toNat, phase := 2 }
  | freeDropped {pin : Byte} (row : s.self.phase.toNat = 2) (owned : s.lock = some s.cur) :
      Row s (.free pin) ((s.dropOriginal pin.toNat).setLock none) (s.self.answered .ok (placed 0 s.self.t))
  /-- R165, R166, R168: GETL, GETD, and the fast path of DOUT -/
  | firstReadAnswered {i : Instr} {pin : Byte} {d : Data} (first : s.self.phase.toNat = 0)
      (row : answersFirstRead i = some pin) (built : s.constructed = true) :
      Row s i s.drew (({ s.self with b := s.gpioSampled pin.toNat } : Context).answered .ok d)
  /-- R167 -/
  | setlWritten {pin : Byte} {v : Bool} (row : s.self.phase.toNat = 2)
      (allowed : (isOutputEnabled s.params s.self.b || s.override) = true) :
      Row s (.setl pin v) (s.storeGpio pin.toNat (setOutput s.params s.self.b v))
        { s.self with t := setOutput s.params s.self.b v, phase := 3 }
  /-- R168 -/
  | doutInputRead {pin : Byte} {v : Bool} (first : s.self.phase.toNat = 0) (built : s.constructed = true) :
      Row s (.dout pin v) s.drew { s.self with b := s.gpioSampled pin.toNat, phase := 1 }
  | doutWritten {pin : Byte} {v : Bool} (row : s.self.phase.toNat = 3) (overridden : s.override = true) :
      Row s (.dout pin v) (s.storeGpio pin.toNat (setOutput s.params s.self.b v))
        { s.self with t := setOutput s.params s.self.b v, phase := 4 }
  /-- R169 -/
  | dinWritten {pin : Byte} (row : s.self.phase.toNat = 2) (overridden : s.override = true) :
      Row s (.din pin) (s.storeGpio pin.toNat (setInput s.params s.self.b))
        { s.self with t := setInput s.params s.self.b, phase := 3 }
  /-- R194 -/
  | diagSkipped {pin : Byte} {d : Data} (first : s.self.phase.toNat = 0) : Row s (.diag pin) s (s.self.answered .ok d)
  | diagLabelled {pin : Byte} (first : s.self.phase.toNat = 0) (built : s.constructed = true) :
      Row s (.diag pin) s { s.self with req := s.valid pin.toNat, phase := 1 }
  | diagAnswered {pin : Byte} {m : Byte} {d : Data} {u : State} (row : s.self.phase.toNat = 2) (read : u = s ∨ u = s.drew) :
      Row s (.diag pin) u (({ s.self with m := m } : Context).answered .ok d)
  /-- R195 -/
  | dumpBegun (first : s.self.phase.toNat = 0) (built : s.constructed = true) :
      Row s .dump s { s.self with k := 0, n := 0, out := [], phase := 1 }
  | dumpAnswered (row : s.self.phase.toNat = 1) (atEnd : s.self.k.toNat = Config.nPin) :
      Row s .dump s (s.self.answered .ok (placed 0 s.self.n))
  | dumpSkipped (row : s.self.phase.toNat = 1) (more : s.self.k.toNat ≠ Config.nPin) :
      Row s .dump s { s.self with k := s.self.k + 1 }
  | dumpLabelled (row : s.self.phase.toNat = 1) (more : s.self.k.toNat ≠ Config.nPin) :
      Row s .dump s { s.self with req := s.valid s.self.k.toNat, phase := 2 }
  | dumpGpioRead {b : Byte} {u : State} (row : s.self.phase.toNat = 2) (read : u = s ∨ u = s.drew) :
      Row s .dump u { s.self with b := b, phase := 3 }
  | dumpEmitted {m : Byte} {d : Data} {u : State} (row : s.self.phase.toNat = 3) (read : u = s ∨ u = s.drew) :
      Row s .dump u { s.self with m := m, out := s.self.out ++ [d], n := s.self.n + 1, k := s.self.k + 1, phase := 1 }
  /-- R95, R151 -/
  | initAlready (first : s.self.phase.toNat = 0) : Row s .init s (s.self.answered .alreadyConstructed 0)
  /-- R142 -/
  | initUnsupported (first : s.self.phase.toNat = 0) : Row s .init s (s.self.answered .unsupportedChip 0)
  /-- R141, R143 -/
  | initBegun (first : s.self.phase.toNat = 0) (absent : s.constructed = false) :
      Row s .init (s.setLocRaw 0) { s.self with k := 0, phase := 1 }
  | initIndexed (row : s.self.phase.toNat = 1) :
      Row s .init (s.setPmidx (locatorIndex s.params s.self.k)) (s.self.atRow 2)
  | initByteRead {raw : BitVec 32} (row : s.self.phase.toNat = 2) :
      Row s .init (s.setLocRaw raw) { s.self with k := s.self.k + 1, phase := if (s.self.k + 1).toNat < 4 then 1 else 3 }
  /-- R145 -/
  | initRejected {st : Status} {d : Data} (row : s.self.phase.toNat = 3) : Row s .init s.lockGivenUp (s.self.answered st d)
  /-- R146 -/
  | initBased {g m : Base} (row : s.self.phase.toNat = 3) : Row s .init (s.setBases g m) (s.self.atRow 4)
  /-- R147 -/
  | initGpioGranted (row : s.self.phase.toNat = 4) (granted : s.arbiterGrants s.gpioBase.toNat s.params.bankSize = true) :
      Row s .init (s.drew.setGpioRsv true) (s.self.atRow 5)
  | initGpioDenied {d : Data} (row : s.self.phase.toNat = 4) :
      Row s .init s.drew.lockGivenUp (s.self.answered .regionUnavailable d)
  | initIomuxGranted (row : s.self.phase.toNat = 5) (granted : s.arbiterGrants s.iomuxBase.toNat s.params.bankSize = true) :
      Row s .init (s.drew.setIomuxRsv true) (s.self.atRow 7)
  | initIomuxDenied (row : s.self.phase.toNat = 5) : Row s .init s.drew (s.self.atRow 6)
  | initRolledBack {d : Data} (row : s.self.phase.toNat = 6) :
      Row s .init (s.setGpioRsv false).lockGivenUp (s.self.answered .regionUnavailable d)
  /-- R148 -/
  | initConstructed {d : Data} (row : s.self.phase.toNat = 7) : Row s .init (s.setConstructed true) (s.self.answered .ok d)
  /-- R150 -/
  | teardownBegun (first : s.self.phase.toNat = 0) (built : s.constructed = true) (free : s.lock = none) :
      Row s .teardown ((s.setLock (some s.cur)).setConstructed false) { s.self with k := 0, n := 0, phase := 1 }
  | teardownLoopEnds (row : s.self.phase.toNat = 1) (atEnd : s.self.k.toNat = Config.nPin) : Row s .teardown s (s.self.atRow 2)
  | teardownRestored (row : s.self.phase.toNat = 1) (inBank : s.self.k.toNat < Config.nPin)
      (requested : s.valid s.self.k.toNat = true) :
      Row s .teardown ((s.storeGpio s.self.k.toNat (s.saved s.self.k.toNat)).dropOriginal s.self.k.toNat)
        { s.self with n := s.self.n + 1, k := s.self.k + 1 }
  | teardownSkipped (row : s.self.phase.toNat = 1) (more : s.self.k.toNat ≠ Config.nPin)
      (notRequested : s.valid s.self.k.toNat = false) : Row s .teardown s { s.self with k := s.self.k + 1 }
  | teardownReleased (row : s.self.phase.toNat = 2) (owned : s.lock = some s.cur) :
      Row s .teardown (s.setLock none) (s.self.atRow 3)
  | teardownIomuxReleased (row : s.self.phase.toNat = 3) : Row s .teardown (s.setIomuxRsv false) (s.self.atRow 4)
  | teardownAnswered {d : Data} (row : s.self.phase.toNat = 4) : Row s .teardown (s.setGpioRsv false) (s.self.answered .ok d)

/-- A row of command `i` leads from `s` to `t`. -/
def RowTo (i : Instr) (s t : State) : Prop := ∃ u x, Row s i u x ∧ t = u.withSelf x

section Inversion

variable {i : Instr} {s t : State}

theorem Row.to {u : State} {x : Context} (r : Row s i u x) : RowTo i s (u.withSelf x) := ⟨u, x, r, rfl⟩

theorem rowTo_held (row : acquireRow i = some s.self.phase.toNat) (taken : s.lock ≠ none) : RowTo i s s :=
  ⟨s, s.self, .held row taken, s.withSelf_self_eq.symm⟩

/-! ### The shared rows -/

theorem needsController_row {r : Result} (first : s.self.phase.toNat = 0) (needs : needsConstructed i = true)
    (h : needsController s r = .next t) (passed : s.constructed = true → r = .next t → RowTo i s t) : RowTo i s t := by
  rcases needsController_next h with ⟨built, h⟩ | ⟨absent, rfl⟩
  · exact passed built h
  · exact (Row.notReady first needs absent).to

theorem acquire_row {q : BitVec 4} (row : acquireRow i = some s.self.phase.toNat) (notTeardown : i ≠ .teardown)
    (built : s.self.phase.toNat = 0 → s.constructed = true) (next : q.toNat = s.self.phase.toNat + 1)
    (h : acquire s (fun s => .next (s.goto q)) = .next t) : RowTo i s t := by
  rcases acquire_next h with ⟨free, h⟩ | ⟨taken, rfl⟩
  · cases h
    exact (Row.acquired row notTeardown free built next).to
  · exact rowTo_held row taken

/-- The first row of the commands that take the lock there. -/
theorem acquireFirst_row (first : s.self.phase.toNat = 0) (row : acquireRow i = some 0) (needs : needsConstructed i = true)
    (notTeardown : i ≠ .teardown) (h : needsController s (acquire s fun s => .next (s.goto 1)) = .next t) : RowTo i s t :=
  needsController_row first needs h fun built h =>
    acquire_row (by rw [row, first]) notTeardown (fun _ => built) (by rw [first]; rfl) h

theorem readPin_row {pin : Byte} {q : BitVec 4} (row : readRow i = some (s.self.phase.toNat, pin))
    (next : q.toNat = s.self.phase.toNat + 1) (h : readPin pin q s = .next t) : RowTo i s t := by
  rw [readPin_eq] at h
  cases h
  exact (Row.pinRead row next).to

theorem releaseOk_row (row : releaseRow i s.self.phase.toNat = true) (h : releaseOk s 0 = .next t) : RowTo i s t := by
  obtain ⟨owned, h⟩ := release_next h
  cases h
  exact (Row.released (v := s.self.t) row owned).to

/-- The override gate of DOUT and DIN (R162): nothing to write, refused, or written. -/
theorem changeDirection_row {pin v : Byte} {q : BitVec 4} (release : releaseRow i s.self.phase.toNat = true)
    (refuse : refuseRow i = some s.self.phase.toNat)
    (written : s.override = true → Row s i (s.storeGpio pin.toNat v) { s.self with t := v, phase := q })
    (h : changeDirection pin v q s = .next t) : RowTo i s t := by
  unfold changeDirection at h
  split at h
  · obtain ⟨owned, h⟩ := release_next h
    cases h
    exact ⟨_, _, .released (v := v) release owned, (s.setLock none).withSelf_upd { s.self with t := v } _⟩
  · split at h
    · cases h
      exact ⟨_, _, .refused (v := v) refuse, s.raise_withSelf { s.self with t := v } _ _⟩
    · next notSafe =>
      rw [writePin_eq] at h
      cases h
      exact (written (by simpa using notSafe)).to

/-- The rows that read an IOMUX byte: whichever bank the address names, no register changes. -/
theorem memRead_quiet {a : Nat} {k : Byte → State → Result} (h : memRead s a k = .next t) :
    ∃ b u, (u = s ∨ u = s.drew) ∧ k b u = .next t := by
  rcases memRead_next h with ⟨_, _, h⟩ | ⟨_, _, h⟩
  · exact ⟨_, _, .inr rfl, h⟩
  · exact ⟨_, _, .inl rfl, h⟩

/-- GETL and GETD read and answer in one row. -/
theorem firstRead_row {pin : Byte} (first : s.self.phase.toNat = 0) (row : answersFirstRead i = some pin)
    (needs : needsConstructed i = true) {answer : Params → Byte → Data}
    (h : (needsController s <| memRead s (gpioAddr s pin.toNat) fun b s =>
      .next ((s.upd fun c => { c with b := b }).respond .ok (answer s.params b))) = .next t) : RowTo i s t := by
  refine needsController_row first needs h fun built h => ?_
  rw [memRead_pin] at h
  cases h
  exact ⟨_, _, .firstReadAnswered (d := answer s.params (s.gpioSampled pin.toNat)) first row built,
    s.drew.withSelf_upd { s.self with b := s.gpioSampled pin.toNat } _⟩

/-! ### The commands -/

theorem execReq_row {pin : Byte} (h : execReq pin s = .next t) : RowTo (.req pin) s t := by
  unfold execReq at h
  split at h
  next row => exact acquireFirst_row row rfl rfl (by simp) h
  next row => exact readPin_row (by rw [row]; rfl) (by rw [row]; rfl) h
  next row =>
    split at h
    · cases h
      exact (Row.refused (v := s.self.t) (by rw [row]; rfl)).to
    · obtain ⟨owned, h⟩ := release_next h
      cases h
      exact (Row.reqRecorded row owned).to
  next => cases h

theorem execFree_row {pin : Byte} (h : execFree pin s = .next t) : RowTo (.free pin) s t := by
  unfold execFree at h
  split at h
  next row => exact acquireFirst_row row rfl rfl (by simp) h
  next row =>
    split at h
    next requested =>
      rw [writePin_eq] at h
      cases h
      exact (Row.freeRestored row requested).to
    next =>
      cases h
      exact (Row.refused (v := s.self.t) (by rw [row]; rfl)).to
  next row =>
    obtain ⟨owned, h⟩ := release_next h
    cases h
    exact (Row.freeDropped row owned).to
  next => cases h

theorem execGetl_row {pin : Byte} (h : execGetl pin s = .next t) : RowTo (.getl pin) s t := by
  unfold execGetl at h
  split at h
  next row => exact firstRead_row row rfl rfl (answer := fun p b => placed 0 (levelNumber (readLevel p b))) h
  next => cases h

theorem execGetd_row {pin : Byte} (h : execGetd pin s = .next t) : RowTo (.getd pin) s t := by
  unfold execGetd at h
  split at h
  next row => exact firstRead_row row rfl rfl (answer := fun p b => placed 0 (directionNumber (directionOf p b))) h
  next => cases h

theorem execSetl_row {pin : Byte} {v : Bool} (h : execSetl pin v s = .next t) : RowTo (.setl pin v) s t := by
  unfold execSetl at h
  split at h
  next row => exact acquireFirst_row row rfl rfl (by simp) h
  next row => exact readPin_row (by rw [row]; rfl) (by rw [row]; rfl) h
  next row =>
    split at h
    next allowed =>
      rw [writePin_eq] at h
      cases h
      exact (Row.setlWritten row allowed).to
    next => exact releaseOk_row (by rw [row]; rfl) h
  next row => exact releaseOk_row (by rw [row]; rfl) h
  next => cases h

theorem execDout_row {pin : Byte} {v : Bool} (h : execDout pin v s = .next t) : RowTo (.dout pin v) s t := by
  unfold execDout at h
  split at h
  next row =>
    refine needsController_row row rfl h fun built h => ?_
    rw [memRead_pin] at h
    dsimp only at h
    split at h
    · cases h
      exact ⟨_, _, .firstReadAnswered (d := 0) row rfl built, s.drew.withSelf_upd { s.self with b := s.gpioSampled pin.toNat } _⟩
    · cases h
      exact ⟨_, _, .doutInputRead row built, s.drew.withSelf_upd { s.self with b := s.gpioSampled pin.toNat } _⟩
  next row => exact acquire_row (by rw [row]; rfl) (by simp) (by simp [row]) (by rw [row]; rfl) h
  next row => exact readPin_row (by rw [row]; rfl) (by rw [row]; rfl) h
  next row => exact changeDirection_row (by rw [row]; rfl) (by rw [row]; rfl) (Row.doutWritten row) h
  next row => exact releaseOk_row (by rw [row]; rfl) h
  next => cases h

theorem execDin_row {pin : Byte} (h : execDin pin s = .next t) : RowTo (.din pin) s t := by
  unfold execDin at h
  split at h
  next row => exact acquireFirst_row row rfl rfl (by simp) h
  next row => exact readPin_row (by rw [row]; rfl) (by rw [row]; rfl) h
  next row => exact changeDirection_row (by rw [row]; rfl) (by rw [row]; rfl) (Row.dinWritten row) h
  next row => exact releaseOk_row (by rw [row]; rfl) h
  next => cases h

theorem execDiag_row {pin : Byte} (h : execDiag pin s = .next t) : RowTo (.diag pin) s t := by
  unfold execDiag at h
  split at h
  next row =>
    refine needsController_row row rfl h fun built h => ?_
    split at h
    · cases h
      exact (Row.diagSkipped row).to
    · cases h
      exact (Row.diagLabelled row built).to
  next row =>
    rw [memRead_pin] at h
    cases h
    exact (Row.pinRead (by rw [row]; rfl) (by rw [row]; rfl)).to
  next row =>
    obtain ⟨m, u, read, h⟩ := memRead_quiet h
    cases h
    have sameSelf : u.self = s.self := by rcases read with rfl | rfl <;> rfl
    refine ⟨u, _, .diagAnswered (m := m) (d := record u.params pin.toNat u.self.req u.self.b m) row read, ?_⟩
    rw [← sameSelf]
    exact u.withSelf_upd { u.self with m := m } _
  next => cases h

theorem execDump_row (h : execDump s = .next t) : RowTo .dump s t := by
  unfold execDump at h
  split at h
  next row =>
    refine needsController_row row rfl h fun built h => ?_
    cases h
    exact (Row.dumpBegun row built).to
  next row =>
    dsimp only at h
    split at h
    next atEnd =>
      cases h
      exact (Row.dumpAnswered row atEnd).to
    next more =>
      split at h
      · cases h
        exact (Row.dumpSkipped row more).to
      · cases h
        exact (Row.dumpLabelled row more).to
  next row =>
    obtain ⟨b, u, read, h⟩ := memRead_quiet h
    cases h
    have sameSelf : u.self = s.self := by rcases read with rfl | rfl <;> rfl
    refine ⟨u, _, .dumpGpioRead (b := b) row read, ?_⟩
    rw [← sameSelf]
    rfl
  next row =>
    obtain ⟨m, u, read, h⟩ := memRead_quiet h
    cases h
    have sameSelf : u.self = s.self := by rcases read with rfl | rfl <;> rfl
    refine ⟨u, _, .dumpEmitted (m := m) (d := record u.params u.self.k.toNat u.self.req u.self.b m) row read, ?_⟩
    rw [← sameSelf]
    rfl
  next => cases h

theorem execInit_row (h : execInit s = .next t) : RowTo .init s t := by
  unfold execInit at h
  split at h
  next row =>
    rcases needsNoController_next h with ⟨absent, h⟩ | ⟨_, rfl⟩
    · split at h
      · cases h
        exact (Row.initBegun row absent).to
      · cases h
        exact (Row.initUnsupported row).to
    · exact (Row.initAlready row).to
  next row =>
    obtain ⟨_, h⟩ := ioWrite_next h
    cases h
    exact (Row.initIndexed row).to
  next row =>
    obtain ⟨_, h⟩ := ioRead_next h
    cases h
    exact (Row.initByteRead row).to
  next row =>
    split at h
    · cases h
      exact (Row.initRejected row).to
    · split at h
      · cases h
        exact (Row.initRejected row).to
      · cases h
        exact (Row.initBased row).to
  next row =>
    rw [regionReserve_eq] at h
    split at h
    next granted =>
      cases h
      exact (Row.initGpioGranted row granted).to
    next =>
      cases h
      exact (Row.initGpioDenied row).to
  next row =>
    rw [regionReserve_eq] at h
    split at h
    next granted =>
      cases h
      exact (Row.initIomuxGranted row granted).to
    next =>
      cases h
      exact (Row.initIomuxDenied row).to
  next row =>
    cases h
    exact (Row.initRolledBack row).to
  next row =>
    cases h
    exact (Row.initConstructed row).to
  next => cases h

/-- A byte of the GPIO bank that a pin's address names is that pin's. -/
theorem State.locate_gpioAddr_eq {k j : Nat} (h : s.locate (gpioAddr s k) = some (.gpio j)) : k < Config.nPin ∧ j = k := by
  unfold State.locate gpioAddr at h
  split at h
  · injection h with h
    injection h with h
    exact ⟨by omega, by omega⟩
  · split at h <;> cases h

theorem execTeardown_row (h : execTeardown s = .next t) : RowTo .teardown s t := by
  unfold execTeardown at h
  split at h
  next row =>
    refine needsController_row row rfl h fun built h => ?_
    rcases acquire_next h with ⟨free, h⟩ | ⟨taken, rfl⟩
    · cases h
      exact (Row.teardownBegun row built free).to
    · exact rowTo_held (by rw [row]; rfl) taken
  next row =>
    dsimp only at h
    split at h
    next atEnd =>
      cases h
      exact (Row.teardownLoopEnds row atEnd).to
    next more =>
      split at h
      next requested =>
        obtain ⟨j, located, h⟩ := memWrite_next h
        obtain ⟨inBank, rfl⟩ := State.locate_gpioAddr_eq located
        cases h
        exact (Row.teardownRestored row inBank requested).to
      next notRequested =>
        cases h
        exact (Row.teardownSkipped row more (by simpa using notRequested)).to
  next row =>
    obtain ⟨owned, h⟩ := release_next h
    cases h
    exact (Row.teardownReleased row owned).to
  next row =>
    cases h
    exact (Row.teardownIomuxReleased row).to
  next row =>
    cases h
    exact (Row.teardownAnswered row).to
  next => cases h

theorem respondCodec_row {d : Data} (unchecked : needsConstructed i = false) (notInit : i ≠ .init)
    (h : respondCodec s d = .next t) : RowTo i s t := by
  unfold respondCodec at h
  split at h
  next row =>
    cases h
    exact (Row.codec row unchecked notInit).to
  next => cases h

/-- All that a micro-step can answer a next state with: a row of its command's table. -/
theorem exec_row (h : exec i s = .next t) : RowTo i s t := by
  cases i with
  | req pin => exact execReq_row h
  | free pin => exact execFree_row h
  | getl pin => exact execGetl_row h
  | getd pin => exact execGetd_row h
  | setl pin v => exact execSetl_row h
  | dout pin v => exact execDout_row h
  | din pin => exact execDin_row h
  | diag pin => exact execDiag_row h
  | dump => exact execDump_row h
  | init => exact execInit_row h
  | teardown => exact execTeardown_row h
  | down _ | dpull _ | dmux _ | isout _ | rlvl _ | sout _ _ | sin _ => exact respondCodec_row rfl (by simp) h

end Inversion

end Sys2Proof.Machine
end

section
/-! PROOFS of what a micro-step leaves alone (spec/10_state.md R24, R32, R44, spec/20_memory.md R63, spec/42_line_controller.md R160,
R161, spec/43_diagnostics.md R198, spec/60_exceptions.md R215). Each is read off the rows of the phase tables. -/

namespace Sys2Proof.Machine

/-- What no row of any command changes, the registers of the moving context aside. -/
structure SameSurroundings (s u : State) : Prop where
  ctxs : u.ctxs = s.ctxs
  cur : u.cur = s.cur
  agenda : u.agenda = s.agenda
  callers : u.callers = s.callers
  inputs : u.inputs = s.inputs
  params : u.params = s.params
  override : u.override = s.override
  iomux : u.iomux = s.iomux
  pmreg : u.pmreg = s.pmreg

section Rows

variable {i : Instr} {s u : State} {x : Context}

theorem Row.surroundings (r : Row s i u x) : SameSurroundings s u := by
  cases r
  case diagAnswered read | dumpGpioRead read | dumpEmitted read =>
    rcases read with rfl | rfl <;> exact ⟨rfl, rfl, rfl, rfl, rfl, rfl, rfl, rfl, rfl⟩
  all_goals exact ⟨rfl, rfl, rfl, rfl, rfl, rfl, rfl, rfl, rfl⟩

theorem Row.pmidx (r : Row s i u x) (notInit : i ≠ .init) : u.pmidx = s.pmidx := by
  cases r
  case diagAnswered read | dumpGpioRead read | dumpEmitted read => rcases read with rfl | rfl <;> rfl
  case initIndexed => exact absurd rfl notInit
  all_goals rfl

/-- Only a `MemWrite` row changes the GPIO file, and it stores to the command's own pin. -/
theorem Row.gpio (r : Row s i u x) :
    u.gpio = s.gpio ∨ ∃ p v, p < Config.nPin ∧ storedPin s i = some p ∧ u.gpio = (s.storeGpio p v).gpio := by
  cases r
  case freeRestored pin _ _ | setlWritten pin _ _ _ | doutWritten pin _ _ _ | dinWritten pin _ _ =>
    exact .inr ⟨pin.toNat, _, pin.isLt, rfl, rfl⟩
  case teardownRestored inBank _ => exact .inr ⟨s.self.k.toNat, _, inBank, rfl, rfl⟩
  case diagAnswered read | dumpGpioRead read | dumpEmitted read => rcases read with rfl | rfl <;> exact .inl rfl
  all_goals exact .inl rfl

theorem Row.gpio_of_neverStores (r : Row s i u x) (never : neverStores i = true) : u.gpio = s.gpio := by
  rcases r.gpio with same | ⟨p, v, _, stored, _⟩
  · exact same
  · cases i <;> simp [neverStores, storedPin] at never stored

/-- The bases and `LOC_RAW` change only under INIT. -/
theorem Row.bases (r : Row s i u x) (notInit : i ≠ .init) :
    u.gpioBase = s.gpioBase ∧ u.iomuxBase = s.iomuxBase ∧ u.locRaw = s.locRaw := by
  cases r
  case diagAnswered read | dumpGpioRead read | dumpEmitted read => rcases read with rfl | rfl <;> exact ⟨rfl, rfl, rfl⟩
  case initBegun | initByteRead | initBased => exact absurd rfl notInit
  all_goals exact ⟨rfl, rfl, rfl⟩

/-- Whether the controller exists and what it holds changes only under the two lifecycle commands. -/
theorem Row.lifecycle (r : Row s i u x) (notInit : i ≠ .init) (notTeardown : i ≠ .teardown) :
    u.constructed = s.constructed ∧ u.gpioRsv = s.gpioRsv ∧ u.iomuxRsv = s.iomuxRsv := by
  cases r
  case diagAnswered read | dumpGpioRead read | dumpEmitted read => rcases read with rfl | rfl <;> exact ⟨rfl, rfl, rfl⟩
  case initGpioGranted | initIomuxGranted | initRolledBack | initConstructed => exact absurd rfl notInit
  case teardownBegun | teardownIomuxReleased | teardownAnswered => exact absurd rfl notTeardown
  all_goals exact ⟨rfl, rfl, rfl⟩

/-- The rows that change the table: one of REQ, one of FREE, one of TEARDOWN's loop (R161). -/
theorem Row.table (r : Row s i u x) :
    (u.origValid = s.origValid ∧ u.origVal = s.origVal) ∨
    (∃ pin b, i = .req pin ∧ s.self.phase.toNat = 2 ∧
      u.origValid = (s.saveOriginal pin.toNat b).origValid ∧ u.origVal = (s.saveOriginal pin.toNat b).origVal) ∨
    ∃ p, (i = .free (BitVec.ofNat 8 p) ∧ p < Config.nPin ∨ i = .teardown ∧ p = s.self.k.toNat) ∧
      u.origValid = (s.dropOriginal p).origValid ∧ u.origVal = s.origVal := by
  cases r
  case reqRecorded pin row _ => exact .inr (.inl ⟨pin, _, rfl, row, rfl, rfl⟩)
  case freeDropped pin _ _ => exact .inr (.inr ⟨pin.toNat, .inl ⟨by simp, pin.isLt⟩, rfl, rfl⟩)
  case teardownRestored => exact .inr (.inr ⟨_, .inr ⟨rfl, rfl⟩, rfl, rfl⟩)
  case diagAnswered read | dumpGpioRead read | dumpEmitted read => rcases read with rfl | rfl <;> exact .inl ⟨rfl, rfl⟩
  all_goals exact .inl ⟨rfl, rfl⟩

end Rows

/-! ### Reading the table and the files through their registers -/

section Congruence

variable {s t : State}

theorem State.valid_congr (h : t.origValid = s.origValid) (j : Nat) : t.valid j = s.valid j := by
  rw [State.valid, State.valid, h]

theorem State.saved_congr (h : t.origVal = s.origVal) (j : Nat) : t.saved j = s.saved j := by
  rw [State.saved, State.saved, h]

theorem State.gpioStored_congr (gpio : t.gpio = s.gpio) (params : t.params = s.params) (j : Nat) :
    t.gpioStored j = s.gpioStored j := by
  rw [State.gpioStored, State.gpioStored, gpio, params]

theorem State.locate_congr (gpioBase : t.gpioBase = s.gpioBase) (iomuxBase : t.iomuxBase = s.iomuxBase) (a : Nat) :
    t.locate a = s.locate a := by
  rw [State.locate, State.locate, gpioBase, iomuxBase]

/-- A state with the same banks, the same IOMUX file and, at the pins an address names, the same stored bits. -/
theorem State.storedAt_congr (gpioBase : t.gpioBase = s.gpioBase) (iomuxBase : t.iomuxBase = s.iomuxBase)
    (iomux : t.iomux = s.iomux) {a : Nat} (gpio : ∀ j, s.locate a = some (.gpio j) → t.gpioStored j = s.gpioStored j) :
    t.storedAt a = s.storedAt a := by
  rw [State.storedAt, State.storedAt, State.locate_congr gpioBase iomuxBase, iomux]
  split
  next j located => rw [gpio j located]
  all_goals rfl

end Congruence

/-- The address of the byte that a located GPIO register is. -/
theorem State.eq_gpioAddr_of_locate {s : State} {a j : Nat} (h : s.locate a = some (.gpio j)) : a = gpioAddr s j := by
  unfold State.locate at h
  split at h
  next inBank =>
    injection h with h
    injection h with h
    rw [gpioAddr, ← h]
    omega
  next =>
    split at h <;> cases h

/-- A store to one pin leaves what is stored at every other address. -/
theorem State.storedAt_of_store {s t : State} {p : Nat} {v : Byte} (gpioBase : t.gpioBase = s.gpioBase)
    (iomuxBase : t.iomuxBase = s.iomuxBase) (iomux : t.iomux = s.iomux) (params : t.params = s.params)
    (stored : t.gpio = (s.storeGpio p v).gpio) {a : Nat} (other : a ≠ gpioAddr s p) : t.storedAt a = s.storedAt a := by
  refine State.storedAt_congr gpioBase iomuxBase iomux fun j located => ?_
  have notPin : j ≠ p := fun e => other (e ▸ State.eq_gpioAddr_of_locate located)
  calc
    t.gpioStored j = (s.storeGpio p v).gpioStored j := State.gpioStored_congr stored params j
    _ = s.gpioStored j := by rw [State.gpioStored_storeGpio, if_neg notPin]

/-! ### The statements -/

/-- Settles O44: a row writes the registers of its own context. -/
theorem execKeepsOtherContexts : Obligations.ExecKeepsOtherContexts := by
  intro i s t h
  obtain ⟨u, x, r, rfl⟩ := exec_row h
  obtain ⟨ctxs, cur, agenda, callers, inputs, params, override, _, _⟩ := r.surroundings
  refine ⟨?_, fun c other => ?_, cur, agenda, callers, inputs, params, override⟩
  · rw [State.withSelf_ctxs, List.length_set, ctxs]
  · have otherOfU : c ≠ u.cur := by rwa [cur]
    calc
      (u.withSelf x).ctx c = u.ctx c := u.upd_ctx_other (fun _ => x) otherOfU
      _ = s.ctx c := by rw [State.ctx, State.ctx, ctxs]

/-- Settles O45. -/
theorem deviceFilesNeverWritten : Obligations.DeviceFilesNeverWritten := by
  intro i s t h
  obtain ⟨u, x, r, rfl⟩ := exec_row h
  exact ⟨r.surroundings.iomux, r.surroundings.pmreg, r.pmidx⟩

/-- Settles O46: only a row that stores changes the file, and only INIT, which stores nothing, moves the banks. -/
theorem gpioStoresOnlyAtThePin : Obligations.GpioStoresOnlyAtThePin := by
  intro i s t h
  obtain ⟨u, x, r, rfl⟩ := exec_row h
  have params := r.surroundings.params
  have iomux := r.surroundings.iomux
  have quiet (same : u.gpio = s.gpio) (j : Nat) : (u.withSelf x).gpioStored j = s.gpioStored j :=
    State.gpioStored_congr same params j
  refine ⟨fun never => quiet (r.gpio_of_neverStores never), fun never notInit a => ?_, fun p own a other => ?_⟩
  · obtain ⟨gpioBase, iomuxBase, _⟩ := r.bases notInit
    exact State.storedAt_congr gpioBase iomuxBase iomux fun j _ => quiet (r.gpio_of_neverStores never) j
  · have notInit : i ≠ .init := by
      rintro rfl
      cases own
    obtain ⟨gpioBase, iomuxBase, _⟩ := r.bases notInit
    rcases r.gpio with same | ⟨q, v, _, own', stored⟩
    · exact State.storedAt_congr gpioBase iomuxBase iomux fun j _ => quiet same j
    · obtain rfl : p = q := Option.some.inj (own.symm.trans own')
      exact State.storedAt_of_store gpioBase iomuxBase iomux params stored other

/-- Settles O47: an entry that differs is the one of the row that changes the table. -/
theorem tableWritersOnly : Obligations.TableWritersOnly := by
  intro i s t h
  obtain ⟨u, x, r, rfl⟩ := exec_row h
  rcases r.table with ⟨valid, saved⟩ | ⟨pin, b, rfl, _, valid, saved⟩ | ⟨p, writer, valid, saved⟩
  · exact ⟨fun j changed => absurd (State.valid_congr valid j) changed,
      fun j changed => absurd (State.saved_congr saved j) changed⟩
  · have validAt (j : Nat) : u.valid j = if j = pin.toNat then true else s.valid j :=
      (State.valid_congr valid j).trans (s.valid_saveOriginal pin.isLt b j)
    have savedAt (j : Nat) : u.saved j = if j = pin.toNat then b else s.saved j :=
      (State.saved_congr saved j).trans (s.saved_saveOriginal pin.isLt b j)
    refine ⟨fun j changed => .inl ?_, fun j changed => ?_⟩
    · obtain rfl : j = pin.toNat := by_contra fun other => changed ((validAt j).trans (if_neg other))
      exact ⟨by simp, pin.isLt, (validAt _).trans (if_pos rfl)⟩
    · obtain rfl : j = pin.toNat := by_contra fun other => changed ((savedAt j).trans (if_neg other))
      exact ⟨by simp, pin.isLt⟩
  · have validAt (j : Nat) : u.valid j = if j = p then false else s.valid j :=
      (State.valid_congr valid j).trans (s.valid_dropOriginal p j)
    refine ⟨fun j changed => .inr ?_, fun j changed => absurd (State.saved_congr saved j) changed⟩
    obtain rfl : j = p := by_contra fun other => changed ((validAt j).trans (if_neg other))
    have dropped : u.valid j = false := (validAt j).trans (if_pos rfl)
    rcases writer with ⟨free, inBank⟩ | ⟨teardown, loop⟩
    · exact .inl ⟨free, inBank, dropped⟩
    · exact .inr ⟨teardown, loop, dropped⟩

/-- Settles O48. -/
theorem lifecycleRegistersOnly : Obligations.LifecycleRegistersOnly := by
  intro i s t h
  obtain ⟨u, x, r, rfl⟩ := exec_row h
  exact ⟨r.bases, r.lifecycle⟩

end Sys2Proof.Machine
end

section
/-! PROOFS of the invariant (spec/10_state.md R41, R45, spec/20_memory.md R75, R77). What a row does to the lock, to the phase and to
the counters is read off the phase tables; the rest of the state is the byte files. A turn replaces the registers of one context or
none, so that each turn keeps the invariant by the same lemma. -/

namespace Sys2Proof.Machine

/-! ### Where the shared rows stand, and the lock there -/

theorem holdsLock_zero (i : Instr) : holdsLock i 0 = false := by cases i <;> rfl

theorem acquireRow_outside {i : Instr} {p : Nat} (row : acquireRow i = some p) : holdsLock i p = false := by
  cases i <;> simp [acquireRow] at row <;> subst row <;> rfl

/-- After `Acquire` the next row of the table is in the locked section. -/
theorem acquireRow_next {i : Instr} {p : Nat} (row : acquireRow i = some p) :
    holdsLock i (p + 1) = true ∧ p + 1 ≤ lastPhase i := by
  cases i <;> simp [acquireRow] at row <;> subst row <;> simp [holdsLock, lastPhase]

theorem acquireRow_uncounted {i : Instr} {p : Nat} (row : acquireRow i = some p) (notTeardown : i ≠ .teardown) (x : Context) :
    countersOk i x = true := by
  cases i with
  | teardown => exact absurd rfl notTeardown
  | req _ | free _ | setl _ _ | dout _ _ | din _ => rfl
  | _ => cases row

/-- A read row is followed by a row on the same side of the lock. -/
theorem readRow_next {i : Instr} {p : Nat} {pin : Byte} (row : readRow i = some (p, pin)) :
    holdsLock i (p + 1) = holdsLock i p ∧ p + 1 ≤ lastPhase i := by
  cases i <;> simp [readRow] at row <;> obtain ⟨rfl, _⟩ := row <;> simp [holdsLock, lastPhase]

theorem readRow_uncounted {i : Instr} {p : Nat} {pin : Byte} (row : readRow i = some (p, pin)) (x : Context) :
    countersOk i x = true := by
  cases i <;> simp [readRow] at row <;> rfl

/-! ### What a row makes of the lock -/

/-- The three things a row can do about the lock: nothing, and the context stays on its side of the section; take it and enter; or end
outside the section without it. -/
inductive LockMove (s : State) (i : Instr) (u : State) (x : Context) : Prop
  | kept (lock : u.lock = s.lock) (side : (x.busy && holdsLock i x.phase.toNat) = holdsLock i s.self.phase.toNat)
  | taken (free : s.lock = none) (lock : u.lock = some s.cur) (inside : (x.busy && holdsLock i x.phase.toNat) = true)
  | givenUp (lock : u.lock = if s.lock = some s.cur then none else s.lock)
      (outside : (x.busy && holdsLock i x.phase.toNat) = false)

section Rows

variable {i : Instr} {s u : State} {x : Context}

/-- A context that answers outside a section has no lock to give up. -/
theorem LockMove.answered (outside : holdsLock i s.self.phase.toNat = false) (lock : u.lock = s.lock) (idle : x.busy = false) :
    LockMove s i u x :=
  .kept lock (by rw [idle, outside]; rfl)

/-- A release of the lock that the context holds. -/
theorem LockMove.released (owned : s.lock = some s.cur) (lock : u.lock = none)
    (outside : (x.busy && holdsLock i x.phase.toNat) = false) : LockMove s i u x :=
  .givenUp (by rw [lock, if_pos owned]) outside

theorem Row.lockMove (r : Row s i u x) (running : s.self.busy = true) : LockMove s i u x := by
  have first_outside (i : Instr) (first : s.self.phase.toNat = 0) : holdsLock i s.self.phase.toNat = false := by
    rw [first, holdsLock_zero]
  cases r with
  | codec first _ _ | notReady first _ _ | diagSkipped first | initAlready first | initUnsupported first =>
    exact .answered (first_outside _ first) rfl rfl
  | firstReadAnswered first _ _ => exact .answered (first_outside _ first) rfl rfl
  | held row _ => exact .kept rfl (by rw [running, Bool.true_and])
  | acquired row _ free _ next =>
    exact .taken free rfl (by simp [running, next, (acquireRow_next row).1])
  | pinRead row next => exact .kept rfl (by simp [running, next, (readRow_next row).1])
  | released _ owned => exact .released owned rfl rfl
  | refused => exact .givenUp rfl rfl
  | reqRecorded _ owned | freeDropped _ owned => exact .released owned rfl rfl
  | freeRestored row _ | setlWritten row _ | doutWritten row _ | dinWritten row _ =>
    exact .kept rfl (by rw [row]; simp [running, holdsLock])
  | doutInputRead first _ => exact .kept rfl (by rw [first]; simp [running, holdsLock])
  | teardownBegun _ _ free => exact .taken free rfl (by simp [running, holdsLock])
  | teardownLoopEnds row _ | teardownRestored row _ _ | teardownSkipped row _ _ =>
    exact .kept rfl (by simp [running, holdsLock, row])
  | teardownReleased _ owned => exact .released owned rfl (by simp [holdsLock])
  | teardownIomuxReleased row => exact .kept rfl (by rw [row]; simp [holdsLock])
  | teardownAnswered row => exact .answered (by rw [row]; rfl) rfl rfl
  | initRejected | initGpioDenied | initRolledBack => exact .givenUp rfl rfl
  | diagAnswered _ read | dumpGpioRead _ read | dumpEmitted _ read =>
    rcases read with rfl | rfl <;> exact .kept rfl (by simp [holdsLock])
  | _ => exact .kept rfl (by simp [holdsLock])

/-- R77 of a row: the context that moves holds the lock exactly if it is in its section afterwards. -/
theorem LockMove.held_iff (m : LockMove s i u x) (exact : s.lock = some s.cur ↔ holdsLock i s.self.phase.toNat = true) :
    u.lock = some s.cur ↔ (x.busy && holdsLock i x.phase.toNat) = true := by
  cases m with
  | kept lock side => rw [lock, side, exact]
  | taken _ lock inside => simp [lock, inside]
  | givenUp lock outside =>
    rw [lock, outside]
    split
    · simp
    · next notHeld => simp [notHeld]

/-- No other context gains or loses the lock. -/
theorem LockMove.other_iff (m : LockMove s i u x) {c : Nat} (other : c ≠ s.cur) : u.lock = some c ↔ s.lock = some c := by
  cases m with
  | kept lock _ => rw [lock]
  | taken free lock _ => simp [lock, free, other.symm]
  | givenUp lock _ =>
    rw [lock]
    split
    · next owned => simp [owned, other.symm]
    · rfl

/-! ### What a row makes of the other registers of its context -/

theorem Row.cmd (r : Row s i u x) : x.cmd = s.self.cmd := by cases r <;> rfl

/-- A row leaves the response alone or drives a status of R210. -/
theorem Row.rsp (r : Row s i u x) : x.rsp = s.self.rsp ∨ ∃ st d, x.rsp = ⟨statusCode st, d⟩ := by
  cases r with
  | codec | notReady | released | refused | reqRecorded | freeDropped | firstReadAnswered | diagSkipped | diagAnswered
  | dumpAnswered | initAlready | initUnsupported | initRejected | initGpioDenied | initRolledBack | initConstructed
  | teardownAnswered => exact .inr ⟨_, _, rfl⟩
  | _ => exact .inl rfl

theorem toNat_succ {k : BitVec 9} (h : k.toNat ≤ 256) : (k + 1).toNat = k.toNat + 1 := by bv_omega

/-- Phase and counters stay on the table (R41, R40). -/
theorem Row.onTable (r : Row s i u x) (inTable : s.self.phase.toNat ≤ lastPhase i) (counters : countersOk i s.self = true)
    (goesOn : x.busy = true) : x.phase.toNat ≤ lastPhase i ∧ countersOk i x = true := by
  cases r with
  | held => exact ⟨inTable, counters⟩
  | acquired row notTeardown _ _ next =>
    exact ⟨next.trans_le (acquireRow_next row).2, acquireRow_uncounted row notTeardown _⟩
  | pinRead row next => exact ⟨next.trans_le (readRow_next row).2, readRow_uncounted row _⟩
  | freeRestored | setlWritten | doutInputRead | doutWritten | dinWritten | diagLabelled => exact ⟨by simp [lastPhase], rfl⟩
  | dumpBegun => exact ⟨by simp [lastPhase], by simp [countersOk]⟩
  | dumpSkipped row more =>
    simp only [countersOk, row, Bool.and_eq_true, decide_eq_true_eq] at counters ⊢
    obtain ⟨⟨k, n⟩, out⟩ := counters
    rw [toNat_succ k]
    exact ⟨row ▸ inTable, ⟨by simp only [Config.nPin] at more; omega, by omega⟩, out⟩
  | dumpLabelled row more =>
    simp only [countersOk, row, Bool.and_eq_true, decide_eq_true_eq] at counters
    obtain ⟨⟨k, n⟩, out⟩ := counters
    refine ⟨by simp [lastPhase], ?_⟩
    simp [countersOk, n, out, lt_of_le_of_ne k more]
  | dumpGpioRead row _ =>
    simp only [countersOk, row, Bool.and_eq_true, decide_eq_true_eq] at counters
    obtain ⟨⟨k, n⟩, out⟩ := counters
    exact ⟨by simp [lastPhase], by simp [countersOk, k, n, out]⟩
  | dumpEmitted row _ =>
    simp only [countersOk, row, Bool.and_eq_true, decide_eq_true_eq] at counters
    obtain ⟨⟨k, n⟩, out⟩ := counters
    refine ⟨by simp [lastPhase], ?_⟩
    simp only [countersOk, toNat_succ k.le, toNat_succ (n.trans k.le), List.length_append, List.length_singleton, out]
    simpa using ⟨k, n⟩
  | initBegun => exact ⟨by simp [lastPhase], by simp [countersOk]⟩
  | initIndexed row =>
    have inLoop : s.self.k.toNat < 4 := by simpa [countersOk, row] using counters
    exact ⟨by simp [lastPhase], by simp [countersOk, Context.atRow, inLoop]⟩
  | initByteRead =>
    dsimp only [countersOk, lastPhase]
    split
    · next more => exact ⟨by simp, by simpa using more⟩
    · exact ⟨by simp, by simp⟩
  | initBased | initGpioGranted | initIomuxGranted | initIomuxDenied => exact ⟨by simp [lastPhase], by simp [countersOk]⟩
  | teardownBegun => exact ⟨by simp [lastPhase], by simp [countersOk]⟩
  | teardownLoopEnds | teardownReleased | teardownIomuxReleased => exact ⟨by simp [lastPhase], by simp [countersOk]⟩
  | teardownRestored row inBank _ =>
    simp only [countersOk, row, Bool.and_eq_true, Bool.or_eq_true, decide_eq_true_eq] at counters ⊢
    obtain ⟨k, n⟩ := counters.resolve_left (by simp)
    rw [toNat_succ k, toNat_succ (n.trans k)]
    exact ⟨row ▸ inTable, .inr ⟨inBank, by omega⟩⟩
  | teardownSkipped row more _ =>
    simp only [countersOk, row, Bool.and_eq_true, Bool.or_eq_true, decide_eq_true_eq] at counters ⊢
    obtain ⟨k, n⟩ := counters.resolve_left (by simp)
    rw [toNat_succ k]
    exact ⟨row ▸ inTable, .inr ⟨lt_of_le_of_ne k more, by omega⟩⟩
  | _ => exact absurd goesOn Bool.false_ne_true

end Rows

/-! ### The files (R30, R32, R35) -/

/-- The part of the invariant that speaks of the byte files. -/
structure FilesOk (s : State) : Prop where
  gpioCanonical : s.gpio.wf
  iomuxCanonical : s.iomux.wf
  pmregCanonical : s.pmreg.wf
  gpioInFile : ∀ e ∈ s.gpio, e.1 < Config.nPin
  iomuxInFile : ∀ e ∈ s.iomux, e.1 < Config.nPin
  pmregInFile : ∀ e ∈ s.pmreg, e.1 < 256
  inputNotStored : ∀ e ∈ s.gpio, e.2 &&& maskIn s.params.layout = 0

theorem Inv.files {s : State} (inv : Inv s) : FilesOk s :=
  ⟨inv.gpioCanonical, inv.iomuxCanonical, inv.pmregCanonical, inv.gpioInFile, inv.iomuxInFile, inv.pmregInFile,
    inv.inputNotStored⟩

theorem FilesOk.congr {s t : State} (ok : FilesOk s) (gpio : t.gpio = s.gpio := by rfl) (iomux : t.iomux = s.iomux := by rfl)
    (pmreg : t.pmreg = s.pmreg := by rfl) (params : t.params = s.params := by rfl) : FilesOk t := by
  refine ⟨?_, ?_, ?_, ?_, ?_, ?_, ?_⟩ <;> simp only [gpio, iomux, pmreg, params]
  exacts [ok.gpioCanonical, ok.iomuxCanonical, ok.pmregCanonical, ok.gpioInFile, ok.iomuxInFile, ok.pmregInFile,
    ok.inputNotStored]

theorem and_not_and_self (v m : Byte) : v &&& ~~~m &&& m = 0 := by
  rw [BitVec.and_assoc, BitVec.and_comm (~~~m), BitVec.and_not_self]
  exact BitVec.and_zero

/-- A stored byte has its input bit cleared (R68). -/
theorem FilesOk.storeGpio {s : State} (ok : FilesOk s) {p : Nat} (inBank : p < Config.nPin) (v : Byte) :
    FilesOk (s.storeGpio p v) where
  gpioCanonical := Memory.wf_write ok.gpioCanonical _ _
  iomuxCanonical := ok.iomuxCanonical
  pmregCanonical := ok.pmregCanonical
  gpioInFile := fun e he => by
    rcases Memory.mem_write he with rfl | old
    · exact inBank
    · exact ok.gpioInFile e old
  iomuxInFile := ok.iomuxInFile
  pmregInFile := ok.pmregInFile
  inputNotStored := fun e he => by
    rcases Memory.mem_write he with rfl | old
    · exact and_not_and_self _ _
    · exact ok.inputNotStored e old

theorem FilesOk.storeIomux {s : State} (ok : FilesOk s) {p : Nat} (inBank : p < Config.nPin) (v : Byte) :
    FilesOk (s.storeIomux p v) :=
  { ok with
    iomuxCanonical := Memory.wf_write ok.iomuxCanonical _ _
    iomuxInFile := fun e he => by
      rcases Memory.mem_write he with rfl | old
      · exact inBank
      · exact ok.iomuxInFile e old }

theorem FilesOk.storePmreg {s : State} (ok : FilesOk s) {p : Nat} (inFile : p < 256) (v : Byte) : FilesOk (s.storePmreg p v) :=
  { ok with
    pmregCanonical := Memory.wf_write ok.pmregCanonical _ _
    pmregInFile := fun e he => by
      rcases Memory.mem_write he with rfl | old
      · exact inFile
      · exact ok.pmregInFile e old }

section ChipsetReset

variable (s : State) (gpio iomux pmreg : Memory) (pmidx : Byte)

/-- The GPIO byte after a chipset reset: kept where the sticky bit was set, else what the chipset leaves (R242). -/
def stickyOr (s : State) (gpio : Memory) (i : Nat) : Byte :=
  if s.gpioStored i &&& maskSticky s.params.layout ≠ 0 then s.gpioStored i else gpio.read i &&& ~~~maskIn s.params.layout

theorem State.chipsetReset_gpio : (s.chipsetReset gpio iomux pmreg pmidx).gpio = Memory.tabulate (stickyOr s gpio) := by
  simp only [State.chipsetReset]
  exact congrArg Memory.tabulate (funext fun _ => rfl)

theorem State.chipsetReset_iomux : (s.chipsetReset gpio iomux pmreg pmidx).iomux = Memory.tabulate iomux.read := by
  simp only [State.chipsetReset]

theorem State.chipsetReset_pmreg : (s.chipsetReset gpio iomux pmreg pmidx).pmreg = Memory.tabulate pmreg.read := by
  simp only [State.chipsetReset]

/-- No byte that the reset leaves has its input bit stored. -/
theorem stickyOr_inputNotStored (i : Nat) : stickyOr s gpio i &&& maskIn s.params.layout = 0 := by
  rw [stickyOr]
  split <;> exact and_not_and_self _ _

/-- The chipset's reset lays the files out anew (R242). -/
theorem FilesOk.chipsetReset : FilesOk (s.chipsetReset gpio iomux pmreg pmidx) := by
  constructor <;> simp only [State.chipsetReset_gpio, State.chipsetReset_iomux, State.chipsetReset_pmreg]
  case gpioCanonical | iomuxCanonical | pmregCanonical => exact Memory.wf_tabulate _
  case gpioInFile | iomuxInFile | pmregInFile => exact fun _ he => (Memory.mem_tabulate he).1
  case inputNotStored =>
    intro e he
    rw [(Memory.mem_tabulate he).2]
    exact stickyOr_inputNotStored s gpio e.1

end ChipsetReset

/-! ### One turn -/

/-- A turn that touches no context and no lock keeps the invariant if it keeps the files. -/
theorem Inv.of_files {s t : State} (inv : Inv s) (ctxs : t.ctxs = s.ctxs) (lock : t.lock = s.lock)
    (curExists : t.cur < s.ctxs.length) (files : FilesOk t) : Inv t := by
  have ctx (c : Nat) : t.ctx c = s.ctx c := by rw [State.ctx, State.ctx, ctxs]
  exact {
    curExists := by rw [ctxs]; exact curExists
    lockHeld := fun c => by rw [lock, ctxs, ctx]; exact inv.lockHeld c
    onTable := fun c => by rw [ctxs, ctx]; exact inv.onTable c
    statusDriven := fun c => by rw [ctxs, ctx]; exact inv.statusDriven c
    gpioCanonical := files.gpioCanonical
    iomuxCanonical := files.iomuxCanonical
    pmregCanonical := files.pmregCanonical
    gpioInFile := files.gpioInFile
    iomuxInFile := files.iomuxInFile
    pmregInFile := files.pmregInFile
    inputNotStored := files.inputNotStored }

theorem State.ctx_of_set {s t : State} {c : Nat} {x : Context} (ctxs : t.ctxs = s.ctxs.set c x) (inRange : c < s.ctxs.length)
    (d : Nat) : t.ctx d = if d = c then x else s.ctx d := by
  rw [State.ctx, ctxs]
  split
  · next same => simp [same, inRange]
  · next other => simp [State.ctx, List.getD, List.getElem?_set_ne (Ne.symm other)]

/-- What a context must meet, seen from outside: it stands on its table and has driven a status of R210. -/
structure Context.Ok (x : Context) : Prop where
  onTable : x.onTable = true
  statusDriven : x.rsp.status.toNat ≤ 10

/-- A turn that replaces the registers of one context, with the lock that its section asks for. -/
theorem Inv.replace {s t : State} (inv : Inv s) {c : Nat} {x : Context} (inRange : c < s.ctxs.length)
    (ctxs : t.ctxs = s.ctxs.set c x) (curExists : t.cur < s.ctxs.length) (ok : x.Ok)
    (own : t.lock = some c ↔ x.inSection = true) (others : ∀ d, d ≠ c → (t.lock = some d ↔ s.lock = some d))
    (files : FilesOk t) : Inv t := by
  have length : t.ctxs.length = s.ctxs.length := by rw [ctxs, List.length_set]
  have ctx := State.ctx_of_set ctxs inRange
  refine {
    curExists := by rw [length]; exact curExists
    lockHeld := fun d => ?lockHeld
    onTable := fun d hd => ?onTable
    statusDriven := fun d hd => ?statusDriven
    gpioCanonical := files.gpioCanonical
    iomuxCanonical := files.iomuxCanonical
    pmregCanonical := files.pmregCanonical
    gpioInFile := files.gpioInFile
    iomuxInFile := files.iomuxInFile
    pmregInFile := files.pmregInFile
    inputNotStored := files.inputNotStored }
  case lockHeld =>
    rw [ctx d, length]
    split
    · next same =>
      subst same
      rw [own]
      exact ⟨fun h => ⟨inRange, h⟩, fun h => h.2⟩
    · next other => rw [others d other, inv.lockHeld d]
  case onTable =>
    rw [ctx d]
    split
    · exact ok.onTable
    · exact inv.onTable d (length ▸ hd)
  case statusDriven =>
    rw [ctx d]
    split
    · exact ok.statusDriven
    · exact inv.statusDriven d (length ▸ hd)

theorem statusCode_le (st : Status) : (statusCode st).toNat ≤ 10 := by cases st <;> decide

theorem Context.onTable_of_idle {x : Context} (idle : x.busy = false) : x.onTable = true := by simp [Context.onTable, idle]

theorem Context.inSection_of_idle {x : Context} (idle : x.busy = false) : x.inSection = false := by
  simp [Context.inSection, idle]

theorem Context.onTable_iff {x : Context} {i : Instr} (h : decode x.cmd = .ok i) :
    x.onTable = true ↔ (x.busy = true → x.phase.toNat ≤ lastPhase i ∧ countersOk i x = true) := by
  rw [Context.onTable, h]
  cases x.busy <;> simp

theorem Context.inSection_eq {x : Context} {i : Instr} (h : decode x.cmd = .ok i) :
    x.inSection = (x.busy && holdsLock i x.phase.toNat) := by
  rw [Context.inSection, h]

theorem Context.inSection_of_illegal {x : Context} {m : Malformed} (h : decode x.cmd = .error m) : x.inSection = false := by
  rw [Context.inSection, h, Bool.and_false]

section Running

variable {s : State}

theorem Inv.self_ok (inv : Inv s) : s.self.Ok := ⟨inv.onTable _ inv.curExists, inv.statusDriven _ inv.curExists⟩

/-- R77 of the running context. -/
theorem Inv.lock_self (inv : Inv s) : s.lock = some s.cur ↔ s.self.inSection = true :=
  (inv.lockHeld s.cur).trans ⟨fun h => h.2, fun h => ⟨inv.curExists, h⟩⟩

theorem Inv.row {i : Instr} {u : State} {x : Context} (inv : Inv s) (running : s.self.busy = true)
    (command : decode s.self.cmd = .ok i) (r : Row s i u x) : Inv (u.withSelf x) := by
  have command' : decode x.cmd = .ok i := by rw [r.cmd, command]
  have around := r.surroundings
  have move := r.lockMove running
  have exact : s.lock = some s.cur ↔ holdsLock i s.self.phase.toNat = true := by
    rw [inv.lock_self, Context.inSection_eq command, running, Bool.true_and]
  obtain ⟨inTable, counters⟩ := (Context.onTable_iff command).1 inv.self_ok.onTable running
  refine inv.replace (c := s.cur) (x := x) inv.curExists ?ctxs ?cur ⟨?table, ?status⟩ ?own (fun d => move.other_iff) ?files
  case ctxs => rw [State.withSelf_ctxs, around.ctxs, around.cur]
  case cur => rw [State.withSelf_cur, around.cur]; exact inv.curExists
  case table => exact (Context.onTable_iff command').2 (r.onTable inTable counters)
  case status =>
    rcases r.rsp with same | ⟨st, d, driven⟩
    · rw [same]; exact inv.self_ok.statusDriven
    · rw [driven]; exact statusCode_le st
  case own => rw [Context.inSection_eq command']; exact move.held_iff exact
  case files =>
    rcases r.gpio with same | ⟨p, v, inBank, _, stored⟩
    · exact inv.files.congr same around.iomux around.pmreg around.params
    · exact (inv.files.storeGpio inBank v).congr stored around.iomux around.pmreg around.params

/-- An illegal word is answered outside any section. -/
theorem Inv.illegalCommand {m : Malformed} (inv : Inv s) (illegal : decode s.self.cmd = .error m) :
    Inv (s.illegalCommand s.self.cmd) := by
  refine inv.replace (c := s.cur) inv.curExists rfl inv.curExists
    ⟨Context.onTable_of_idle rfl, statusCode_le .illegalCommand⟩ ?own (fun _ _ => .rfl) inv.files.congr
  rw [Context.inSection_of_idle rfl]
  rw [State.illegalCommand_lock, inv.lock_self, Context.inSection_of_illegal illegal]

theorem Inv.microStep {t : State} (inv : Inv s) (running : s.self.busy = true) (h : microStep s = .next t) : Inv t := by
  cases command : decode s.self.cmd with
  | ok i =>
    rw [microStep_of_ok command] at h
    obtain ⟨u, x, r, rfl⟩ := exec_row h
    exact inv.row running command r
  | error m =>
    simp only [Machine.microStep, command] at h
    cases h
    exact inv.illegalCommand command

theorem Inv.setCur (inv : Inv s) {c : Nat} (inRange : c < s.ctxs.length) : Inv (s.setCur c) :=
  inv.of_files rfl rfl inRange inv.files.congr

/-- An accepted command is at row 0, outside any section (R90). -/
theorem Inv.issue (inv : Inv s) {c : Nat} (inRange : c < s.ctxs.length) (idle : (s.ctx c).busy = false) (w : Word) :
    Inv (s.issue c w) := by
  have outside (x : Context) (first : x.phase = 0) : x.inSection = false := by
    cases command : decode x.cmd with
    | ok i =>
      have row : x.phase.toNat = 0 := congrArg BitVec.toNat first
      rw [Context.inSection_eq command, row, holdsLock_zero, Bool.and_false]
    | error m => exact Context.inSection_of_illegal command
  have first_onTable (x : Context) (first : x.phase = 0) : x.onTable = true := by
    cases command : decode x.cmd with
    | ok i =>
      refine (Context.onTable_iff command).2 fun _ => ⟨by simp [first], ?_⟩
      cases i <;> simp [countersOk, first]
    | error m => simp [Context.onTable, command, first]
  refine inv.replace inRange rfl inv.curExists ⟨first_onTable _ rfl, inv.statusDriven c inRange⟩ ?own (fun _ _ => .rfl) inv.files.congr
  rw [outside _ rfl, State.issue_lock, inv.lockHeld c, Context.inSection_of_idle idle]
  simp

theorem Inv.runContext {t : State} (inv : Inv s) {c : Nat} (h : runContext c s = .next t) : Inv t := by
  unfold Machine.runContext at h
  split at h
  next inRange =>
    split at h
    next running => exact (inv.setCur inRange).microStep running h
    next notRunning =>
      have idle : (s.ctx c).busy = false := by simpa using notRunning
      split at h
      · cases h
        exact inv.setCur inRange
      next w ws _ =>
        cases h
        have accepting : Inv ((s.setCur c).setCallers (s.callers.set c ws)) :=
          (inv.setCur inRange).of_files rfl rfl inRange inv.files.congr
        exact accepting.issue inRange idle w
  next =>
    cases h
    exact inv

theorem Inv.glcReset (inv : Inv s) : Inv s.glcReset where
  curExists := by rw [State.glcReset_ctxs_length]; exact inv.curExists
  lockHeld := fun c => by
    rw [State.glcReset_ctx, Context.inSection_of_idle rfl]
    simp [State.glcReset]
  onTable := fun c _ => by rw [State.glcReset_ctx]; rfl
  statusDriven := fun c _ => by rw [State.glcReset_ctx]; exact Nat.zero_le _
  gpioCanonical := inv.gpioCanonical
  iomuxCanonical := inv.iomuxCanonical
  pmregCanonical := inv.pmregCanonical
  gpioInFile := inv.gpioInFile
  iomuxInFile := inv.iomuxInFile
  pmregInFile := inv.pmregInFile
  inputNotStored := inv.inputNotStored

/-- A write by another agent happens or not, as `EnvStep` says (R82). -/
theorem Inv.ite {t : State} {p : Bool} (inv : Inv s) (written : Inv t) : Inv (if p then t else s) := by
  split
  · exact written
  · exact inv

theorem Inv.takeTurn {e : Event} {t : State} (inv : Inv s) (h : takeTurn e s = .next t) : Inv t := by
  have sameContexts (t : State) (ctxs : t.ctxs = s.ctxs) (lock : t.lock = s.lock) (cur : t.cur = s.cur) (files : FilesOk t) :
      Inv t := inv.of_files ctxs lock (cur ▸ inv.curExists) files
  cases e with
  | run c => exact inv.runContext h
  | reset => cases h; exact inv.glcReset
  | pad _ _ | arbiter _ | chip _ _ _ | strap _ => cases h; exact sameContexts _ rfl rfl rfl inv.files.congr
  | envGpio i v => cases h; exact inv.ite (sameContexts _ rfl rfl rfl (inv.files.storeGpio i.isLt v))
  | envIomux i v => cases h; exact inv.ite (sameContexts _ rfl rfl rfl (inv.files.storeIomux i.isLt v))
  | envPmidx v => cases h; exact inv.ite (sameContexts _ rfl rfl rfl inv.files.congr)
  | envPmreg k v => cases h; exact inv.ite (sameContexts _ rfl rfl rfl (inv.files.storePmreg k.isLt v))
  | chipsetReset g m r x => cases h; exact sameContexts _ rfl rfl rfl (.chipsetReset s g m r x)

theorem Inv.setAgenda (inv : Inv s) (a : List Event) : Inv (s.setAgenda a) := inv.of_files rfl rfl inv.curExists inv.files.congr

end Running

/-- Settles O53: whoever moves, the turn replaces the registers of one context or none. -/
theorem stepKeepsInvariant : Obligations.StepKeepsInvariant := by
  intro s t inv h
  cases agenda : s.agenda with
  | nil =>
    simp only [step, nextStep, agenda] at h
    exact inv.runContext h
  | cons e rest =>
    rw [step_of_agenda agenda] at h
    exact (inv.setAgenda rest).takeTurn h

/-- Settles O56. -/
theorem oneLockedSectionAtATime : Obligations.OneLockedSectionAtATime := by
  refine ⟨fun s c d inv inC inD => ?exclusive, fun s inv isOver => ?free⟩
  case exclusive =>
    have holds (c : Nat) (inside : (s.ctx c).inSection = true) : s.lock = some c := by
      refine (inv.lockHeld c).2 ⟨?_, inside⟩
      by_contra outside
      rw [State.ctx_of_ge (not_lt.mp outside)] at inside
      exact absurd inside Bool.false_ne_true
    exact Option.some.inj ((holds c inC).symm.trans (holds d inD))
  case free =>
    obtain ⟨idle, -⟩ := isOver
    cases lock : s.lock with
    | none => rfl
    | some c =>
      obtain ⟨_, inside⟩ := (inv.lockHeld c).1 lock
      rw [Context.inSection_of_idle (idle c)] at inside
      exact absurd inside Bool.false_ne_true

end Sys2Proof.Machine
end

section
/-! PROOFS that a run starts well and never gets stuck (spec/10_state.md R41, R45, spec/20_memory.md R67, R68, R73, R77). At a row of its
table, with its counter in range and the lock if it is in its section, a command has a next state: the shared operations say when they
go on, and each row is put together from them. -/

namespace Sys2Proof.Machine

/-! ### The reset state -/

theorem State.reset_ctx (c : Nat) : State.reset.ctx c = Context.idle := by
  match c with
  | 0 | 1 => rfl
  | c + 2 => exact State.ctx_of_ge (Nat.le_add_left 2 c)

theorem not_runs_idle (i : Instr) : ¬Context.idle.runs i := fun h => Bool.false_ne_true h.1

theorem State.reset_valid (i : Nat) : State.reset.valid i = false := by
  have table : State.reset.origValid[i]? = if i < 256 then some false else none := Vector.getElem?_replicate
  rw [State.valid, table]
  split <;> rfl

theorem inv_reset : Inv State.reset where
  curExists := by decide
  lockHeld := fun c => by
    rw [State.reset_ctx, Context.inSection_of_idle rfl]
    simp [State.reset]
  onTable := fun c _ => by rw [State.reset_ctx]; rfl
  statusDriven := fun c _ => by rw [State.reset_ctx]; exact Nat.zero_le _
  gpioCanonical := Memory.wf_nil
  iomuxCanonical := Memory.wf_nil
  pmregCanonical := Memory.wf_nil
  gpioInFile := fun _ he => absurd he List.not_mem_nil
  iomuxInFile := fun _ he => absurd he List.not_mem_nil
  pmregInFile := fun _ he => absurd he List.not_mem_nil
  inputNotStored := fun _ he => absurd he List.not_mem_nil

/-- Settles O52: at reset every context is idle, the files are empty and no controller exists. -/
theorem resetStateMeetsInvariants : Obligations.ResetStateMeetsInvariants := by
  have notRunning (c : Nat) (i : Instr) : ¬(State.reset.ctx c).runs i := by
    rw [State.reset_ctx]
    exact not_runs_idle i
  have noLifecycle (c : Nat) : ¬State.reset.lifecycleIn c := fun h => h.elim (notRunning c _) (notRunning c _)
  refine ⟨inv_reset, ?lifecycle, ?orderly⟩
  case lifecycle =>
    exact {
      built := fun h => absurd h Bool.false_ne_true
      init := fun c h => absurd h (notRunning c _)
      teardown := fun c h => absurd h (notRunning c _)
      absent := fun _ _ => ⟨rfl, rfl, State.reset_valid⟩
      users := fun c i h => absurd h (notRunning c i) }
  case orderly =>
    exact {
      oneLifecycle := fun c _ h => absurd h (noLifecycle c)
      quietTeardown := fun c _ h => absurd h (notRunning c _) }

/-! ### When the shared operations go on -/

/-- The answer is a next state. -/
def GoesOn (r : Result) : Prop := ∃ t, r = .next t

theorem goesOn_next (t : State) : GoesOn (.next t) := ⟨t, rfl⟩

section Operations

variable {s : State}

theorem goesOn_needsController {r : Result} (h : GoesOn r) : GoesOn (needsController s r) := by
  unfold needsController
  split
  · exact h
  · exact goesOn_next _

theorem goesOn_needsNoController {r : Result} (h : GoesOn r) : GoesOn (needsNoController s r) := by
  unfold needsNoController
  split
  · exact goesOn_next _
  · exact h

theorem goesOn_acquire {k : State → Result} (h : ∀ u, GoesOn (k u)) : GoesOn (acquire s k) := by
  unfold acquire
  split
  · exact h _
  · exact goesOn_next _

theorem goesOn_release (owned : s.lock = some s.cur) {k : State → Result} (h : ∀ u, GoesOn (k u)) : GoesOn (release s k) := by
  rw [release_of_held owned]
  exact h _

theorem goesOn_releaseOk (owned : s.lock = some s.cur) (d : Data) : GoesOn (releaseOk s d) :=
  goesOn_release owned fun _ => goesOn_next _

theorem goesOn_gpioRead {k : Nat} (inBank : k < Config.nPin) {f : Byte → State → Result} (h : ∀ b u, GoesOn (f b u)) :
    GoesOn (memRead s (gpioAddr s k) f) := by
  rw [memRead_gpioAddr s inBank]
  exact h _ _

/-- Wherever the banks lie, `IOMUX_BASE + k` names a register of one of them. -/
theorem goesOn_iomuxRead {k : Nat} (inBank : k < Config.nPin) {f : Byte → State → Result} (h : ∀ b u, GoesOn (f b u)) :
    GoesOn (memRead s (iomuxAddr s k) f) := by
  unfold memRead
  rcases s.locate_iomuxAddr inBank with located | ⟨j, _, located⟩ <;> rw [located] <;> exact h _ _

theorem goesOn_readPin (pin : Byte) (q : BitVec 4) : GoesOn (readPin pin q s) :=
  goesOn_gpioRead pin.isLt fun _ _ => goesOn_next _

theorem goesOn_writePin (pin v : Byte) (q : BitVec 4) : GoesOn (writePin pin v q s) := by
  rw [writePin_eq]
  exact goesOn_next _

theorem goesOn_changeDirection (owned : s.lock = some s.cur) (pin v : Byte) (q : BitVec 4) :
    GoesOn (changeDirection pin v q s) := by
  unfold changeDirection
  split
  · exact goesOn_releaseOk (s := s.upd _) owned _
  · split
    · exact goesOn_next _
    · exact goesOn_writePin pin v q

/-- Whatever a branch of a row tests, it goes on if both its sides do. -/
theorem goesOn_ite {p : Prop} [Decidable p] {a b : Result} (ha : GoesOn a) (hb : GoesOn b) : GoesOn (if p then a else b) := by
  split
  · exact ha
  · exact hb

end Operations

/-! ### The commands -/

/-- The context stands where command `i` can go on: at a row of the table, its counter in range, with the lock in the section. -/
structure Ready (i : Instr) (s : State) : Prop where
  inTable : s.self.phase.toNat ≤ lastPhase i
  counters : countersOk i s.self = true
  owned : holdsLock i s.self.phase.toNat = true → s.lock = some s.cur

section Commands

variable {s : State}

theorem execReq_goesOn {pin : Byte} (ready : Ready (.req pin) s) : GoesOn (execReq pin s) := by
  have inTable : s.self.phase.toNat ≤ 2 := ready.inTable
  unfold execReq
  split
  next => exact goesOn_needsController (goesOn_acquire fun _ => goesOn_next _)
  next => exact goesOn_readPin pin 2
  next row => exact goesOn_ite (goesOn_next _) (goesOn_releaseOk (s := s.saveOriginal _ _) (ready.owned (by rw [row]; rfl)) _)
  next =>
    simp only [imp_false] at *
    omega

theorem execFree_goesOn {pin : Byte} (ready : Ready (.free pin) s) : GoesOn (execFree pin s) := by
  have inTable : s.self.phase.toNat ≤ 2 := ready.inTable
  unfold execFree
  split
  next => exact goesOn_needsController (goesOn_acquire fun _ => goesOn_next _)
  next => exact goesOn_ite (goesOn_writePin pin _ 2) (goesOn_next _)
  next row => exact goesOn_releaseOk (s := s.dropOriginal _) (ready.owned (by rw [row]; rfl)) _
  next =>
    simp only [imp_false] at *
    omega

theorem execGetl_goesOn {pin : Byte} (ready : Ready (.getl pin) s) : GoesOn (execGetl pin s) := by
  have inTable : s.self.phase.toNat ≤ 0 := ready.inTable
  unfold execGetl
  split
  next => exact goesOn_needsController (goesOn_gpioRead pin.isLt fun _ _ => goesOn_next _)
  next =>
    simp only [imp_false] at *
    omega

theorem execGetd_goesOn {pin : Byte} (ready : Ready (.getd pin) s) : GoesOn (execGetd pin s) := by
  have inTable : s.self.phase.toNat ≤ 0 := ready.inTable
  unfold execGetd
  split
  next => exact goesOn_needsController (goesOn_gpioRead pin.isLt fun _ _ => goesOn_next _)
  next =>
    simp only [imp_false] at *
    omega

theorem execSetl_goesOn {pin : Byte} {v : Bool} (ready : Ready (.setl pin v) s) : GoesOn (execSetl pin v s) := by
  have inTable : s.self.phase.toNat ≤ 3 := ready.inTable
  unfold execSetl
  split
  next => exact goesOn_needsController (goesOn_acquire fun _ => goesOn_next _)
  next => exact goesOn_readPin pin 2
  next row => exact goesOn_ite (goesOn_writePin pin _ 3) (goesOn_releaseOk (ready.owned (by rw [row]; rfl)) _)
  next row => exact goesOn_releaseOk (ready.owned (by rw [row]; rfl)) _
  next =>
    simp only [imp_false] at *
    omega

theorem execDout_goesOn {pin : Byte} {v : Bool} (ready : Ready (.dout pin v) s) : GoesOn (execDout pin v s) := by
  have inTable : s.self.phase.toNat ≤ 4 := ready.inTable
  unfold execDout
  split
  next =>
    exact goesOn_needsController (goesOn_gpioRead pin.isLt fun _ _ => goesOn_ite (goesOn_next _) (goesOn_next _))
  next => exact goesOn_acquire fun _ => goesOn_next _
  next => exact goesOn_readPin pin 3
  next row => exact goesOn_changeDirection (ready.owned (by rw [row]; rfl)) pin _ 4
  next row => exact goesOn_releaseOk (ready.owned (by rw [row]; rfl)) _
  next =>
    simp only [imp_false] at *
    omega

theorem execDin_goesOn {pin : Byte} (ready : Ready (.din pin) s) : GoesOn (execDin pin s) := by
  have inTable : s.self.phase.toNat ≤ 3 := ready.inTable
  unfold execDin
  split
  next => exact goesOn_needsController (goesOn_acquire fun _ => goesOn_next _)
  next => exact goesOn_readPin pin 2
  next row => exact goesOn_changeDirection (ready.owned (by rw [row]; rfl)) pin _ 3
  next row => exact goesOn_releaseOk (ready.owned (by rw [row]; rfl)) _
  next =>
    simp only [imp_false] at *
    omega

theorem execDiag_goesOn {pin : Byte} (ready : Ready (.diag pin) s) : GoesOn (execDiag pin s) := by
  have inTable : s.self.phase.toNat ≤ 2 := ready.inTable
  unfold execDiag
  split
  next => exact goesOn_needsController (goesOn_ite (goesOn_next _) (goesOn_next _))
  next => exact goesOn_gpioRead pin.isLt fun _ _ => goesOn_next _
  next => exact goesOn_iomuxRead pin.isLt fun _ _ => goesOn_next _
  next =>
    simp only [imp_false] at *
    omega

theorem execDump_goesOn (ready : Ready .dump s) : GoesOn (execDump s) := by
  have inTable : s.self.phase.toNat ≤ 3 := ready.inTable
  have counters := ready.counters
  unfold execDump
  split
  next => exact goesOn_needsController (goesOn_next _)
  next => exact goesOn_ite (goesOn_next _) (goesOn_ite (goesOn_next _) (goesOn_next _))
  next row =>
    simp only [countersOk, row, Bool.and_eq_true, decide_eq_true_eq] at counters
    exact goesOn_gpioRead counters.1.1 fun _ _ => goesOn_next _
  next row =>
    simp only [countersOk, row, Bool.and_eq_true, decide_eq_true_eq] at counters
    exact goesOn_iomuxRead counters.1.1 fun _ _ => goesOn_next _
  next =>
    simp only [imp_false] at *
    omega

theorem execInit_goesOn (ready : Ready .init s) : GoesOn (execInit s) := by
  have inTable : s.self.phase.toNat ≤ 7 := ready.inTable
  unfold execInit
  split
  next => exact goesOn_needsNoController (goesOn_ite (goesOn_next _) (goesOn_next _))
  next =>
    rw [ioWrite_indexPort]
    exact goesOn_next _
  next =>
    rw [ioRead_dataPort]
    exact goesOn_next _
  next => exact goesOn_ite (goesOn_next _) (goesOn_ite (goesOn_next _) (goesOn_next _))
  next => exact goesOn_ite (goesOn_next _) (goesOn_next _)
  next => exact goesOn_ite (goesOn_next _) (goesOn_next _)
  next => exact goesOn_next _
  next => exact goesOn_next _
  next =>
    simp only [imp_false] at *
    omega

theorem execTeardown_goesOn (ready : Ready .teardown s) : GoesOn (execTeardown s) := by
  have inTable : s.self.phase.toNat ≤ 4 := ready.inTable
  have counters := ready.counters
  unfold execTeardown
  split
  next => exact goesOn_needsController (goesOn_acquire fun _ => goesOn_next _)
  next row =>
    have inLoop : s.self.k.toNat ≤ 256 := by
      simp only [countersOk, row, Bool.and_eq_true, Bool.or_eq_true, decide_eq_true_eq] at counters
      exact (counters.resolve_left (by simp)).1
    dsimp only
    split
    · exact goesOn_next _
    next more =>
      refine goesOn_ite ?_ (goesOn_next _)
      rw [memWrite_gpioAddr s (lt_of_le_of_ne inLoop more)]
      exact goesOn_next _
  next row => exact goesOn_release (ready.owned (by rw [row]; rfl)) fun _ => goesOn_next _
  next => exact goesOn_next _
  next => exact goesOn_next _
  next =>
    simp only [imp_false] at *
    omega

theorem respondCodec_goesOn {d : Data} (inTable : s.self.phase.toNat ≤ 0) : GoesOn (respondCodec s d) := by
  unfold respondCodec
  split
  next => exact goesOn_next _
  next =>
    simp only [imp_false] at *
    omega

theorem exec_goesOn {i : Instr} (ready : Ready i s) : GoesOn (exec i s) := by
  cases i with
  | req pin => exact execReq_goesOn ready
  | free pin => exact execFree_goesOn ready
  | getl pin => exact execGetl_goesOn ready
  | getd pin => exact execGetd_goesOn ready
  | setl pin v => exact execSetl_goesOn ready
  | dout pin v => exact execDout_goesOn ready
  | din pin => exact execDin_goesOn ready
  | diag pin => exact execDiag_goesOn ready
  | dump => exact execDump_goesOn ready
  | init => exact execInit_goesOn ready
  | teardown => exact execTeardown_goesOn ready
  | down _ | dpull _ | dmux _ | isout _ | rlvl _ | sout _ _ | sin _ => exact respondCodec_goesOn ready.inTable

/-! ### Turns -/

theorem Inv.ready {i : Instr} (inv : Inv s) (running : s.self.busy = true) (command : decode s.self.cmd = .ok i) : Ready i s := by
  obtain ⟨inTable, counters⟩ := (Context.onTable_iff command).1 inv.self_ok.onTable running
  refine ⟨inTable, counters, fun inside => inv.lock_self.2 ?_⟩
  rw [Context.inSection_eq command, running, inside]
  rfl

theorem microStep_goesOn (inv : Inv s) (running : s.self.busy = true) : GoesOn (microStep s) := by
  cases command : decode s.self.cmd with
  | ok i =>
    rw [microStep_of_ok command]
    exact exec_goesOn (inv.ready running command)
  | error m =>
    rw [microStep_of_error command]
    exact goesOn_next _

theorem runContext_goesOn (inv : Inv s) (c : Nat) : GoesOn (runContext c s) := by
  unfold runContext
  split
  next inRange =>
    split
    next running => exact microStep_goesOn (inv.setCur inRange) running
    next => split <;> exact goesOn_next _
  next => exact goesOn_next _

theorem takeTurn_goesOn (inv : Inv s) (e : Event) : GoesOn (takeTurn e s) := by
  cases e with
  | run c => exact runContext_goesOn inv c
  | _ => exact goesOn_next _

end Commands

/-- Settles O54: the turn of a context goes on because the invariant puts it at a row it can take; no other turn can stop. -/
theorem invariantStateNeverFaults : Obligations.InvariantStateNeverFaults := by
  intro s inv
  cases agenda : s.agenda with
  | nil =>
    simp only [step, nextStep, agenda]
    exact runContext_goesOn inv _
  | cons e rest =>
    rw [step_of_agenda agenda]
    exact takeTurn_goesOn (inv.setAgenda rest) e

end Sys2Proof.Machine
end

section
/-! PROOFS of the lifecycle invariant (spec/10_state.md R23, spec/41_locator_lifecycle.md R147 to R150, spec/70_reset_and_hazards.md
R255, R256). A turn replaces the registers of one context at most. Either that context runs no lifecycle command past its first row,
and then the turn changes none of the registers the invariant speaks of but the table of a constructed controller; or it runs INIT or
TEARDOWN, and then it is the only one that does, and its phase table says what it holds. -/

namespace Sys2Proof.Machine

/-! ### The registers the invariant speaks of -/

/-- The registers of the lifecycle and of the table are the same. -/
structure SameController (s t : State) : Prop where
  constructed : t.constructed = s.constructed
  gpioRsv : t.gpioRsv = s.gpioRsv
  iomuxRsv : t.iomuxRsv = s.iomuxRsv
  gpioBase : t.gpioBase = s.gpioBase
  iomuxBase : t.iomuxBase = s.iomuxBase
  params : t.params = s.params

section Congruence

variable {s t : State}

theorem State.tableEmpty_congr (table : t.origValid = s.origValid) : t.tableEmpty ↔ s.tableEmpty := by
  simp only [State.tableEmpty, State.valid_congr table]

theorem SameController.regionInSpace (same : SameController s t) (base : Base) : t.regionInSpace base ↔ s.regionInSpace base := by
  rw [State.regionInSpace, State.regionInSpace, same.params]

theorem SameController.built (same : SameController s t)
    (built : s.constructed = true →
      s.gpioRsv = true ∧ s.iomuxRsv = true ∧ s.regionInSpace s.gpioBase ∧ s.regionInSpace s.iomuxBase) :
    t.constructed = true → t.gpioRsv = true ∧ t.iomuxRsv = true ∧ t.regionInSpace t.gpioBase ∧ t.regionInSpace t.iomuxBase := by
  rw [same.constructed, same.gpioRsv, same.iomuxRsv, same.regionInSpace, same.regionInSpace, same.gpioBase, same.iomuxBase]
  exact built

/-- At its first row INIT has done nothing yet. -/
theorem InitStage.first (s : State) : InitStage s 0 := by constructor <;> omega

/-- At its first row TEARDOWN has done nothing yet. -/
theorem TeardownStage.first (s : State) (k : Nat) : TeardownStage s 0 k := by constructor <;> omega

theorem InitStage.congr {p : Nat} (stage : InitStage s p) (same : SameController s t) (table : t.origValid = s.origValid) :
    InitStage t p where
  notYet := by rw [same.constructed, State.tableEmpty_congr table]; exact stage.notYet
  none := by rw [same.gpioRsv, same.iomuxRsv]; exact stage.none
  gpioOnly := by rw [same.gpioRsv, same.iomuxRsv, same.regionInSpace, same.gpioBase]; exact stage.gpioOnly
  both := by
    rw [same.gpioRsv, same.iomuxRsv, same.regionInSpace, same.regionInSpace, same.gpioBase, same.iomuxBase]
    exact stage.both

theorem TeardownStage.congr {p k : Nat} (stage : TeardownStage s p k) (same : SameController s t)
    (table : t.origValid = s.origValid) : TeardownStage t p k where
  gone := by rw [same.constructed]; exact stage.gone
  stillHeld := by rw [same.gpioRsv, same.iomuxRsv]; exact stage.stillHeld
  restoredBelow := by simp only [State.valid_congr table]; exact stage.restoredBelow
  restoredAll := by rw [State.tableEmpty_congr table]; exact stage.restoredAll
  gpioOnly := by rw [same.gpioRsv, same.iomuxRsv]; exact stage.gpioOnly

theorem LifecycleInv.congr (inv : LifecycleInv s) (same : SameController s t) (table : t.origValid = s.origValid)
    (ctxs : t.ctxs = s.ctxs) : LifecycleInv t := by
  have ctx (c : Nat) : t.ctx c = s.ctx c := by rw [State.ctx, State.ctx, ctxs]
  exact {
    built := same.built inv.built
    init := fun c => by rw [ctx]; exact fun h => (inv.init c h).congr same table
    teardown := fun c => by rw [ctx]; exact fun h => (inv.teardown c h).congr same table
    absent := by
      simp only [State.lifecycleIn, ctx, same.constructed, same.gpioRsv, same.iomuxRsv, State.tableEmpty_congr table]
      exact inv.absent
    users := fun c => by rw [ctx, same.constructed]; exact inv.users c }

theorem Orderly.congr (orderly : Orderly s) (ctxs : t.ctxs = s.ctxs) : Orderly t := by
  have ctx (c : Nat) : t.ctx c = s.ctx c := by rw [State.ctx, State.ctx, ctxs]
  constructor <;> simp only [State.lifecycleIn, ctx]
  exacts [orderly.oneLifecycle, orderly.quietTeardown]

end Congruence

/-! ### Turns that replace one context -/

theorem Context.runs_unique {x : Context} {i j : Instr} (hi : x.runs i) (hj : x.runs j) : i = j :=
  Except.ok.inj (hi.2.symm.trans hj.2)

section Replaced

variable {s t : State} {c : Nat} {x : Context}

/-- The command of a user of the controller ends, stays or goes on; where it changes the table or goes on, the controller exists. So
does an accepted or an answered command, and a lifecycle command that ends at its first row. -/
theorem LifecycleInv.replace (inv : LifecycleInv s) (ctx : ∀ d, t.ctx d = if d = c then x else s.ctx d)
    (same : SameController s t) (table : t.origValid = s.origValid ∨ s.constructed = true ∧ ∀ d, d ≠ c → ¬(s.ctx d).runs .teardown)
    (wasFirst : s.lifecycleIn c → (s.ctx c).phase = 0) (lifecycleFirst : x.runs .init ∨ x.runs .teardown → x.phase = 0)
    (user : x.busy = true → x.phase ≠ 0 → s.constructed = true) : LifecycleInv t := by
  refine { built := same.built inv.built, init := fun d => ?init, teardown := fun d => ?teardown, absent := ?absent,
           users := fun d i => ?users }
  case init =>
    rw [ctx d]
    split
    · intro h
      rw [lifecycleFirst (.inl h)]
      exact .first t
    · intro h
      rcases table with table | ⟨built, _⟩
      · exact (inv.init d h).congr same table
      · have notStarted : (s.ctx d).phase.toNat = 0 := by
          by_contra started
          have absent := ((inv.init d h).notYet (Nat.pos_of_ne_zero started)).1
          exact Bool.false_ne_true (absent.symm.trans built)
        rw [notStarted]
        exact .first t
  case teardown =>
    rw [ctx d]
    split
    · intro h
      rw [lifecycleFirst (.inr h)]
      exact .first t _
    · next other =>
      intro h
      rcases table with table | ⟨_, quiet⟩
      · exact (inv.teardown d h).congr same table
      · exact absurd h (quiet d other)
  case absent =>
    intro absent allFirst
    rw [same.constructed] at absent
    rcases table with table | ⟨built, _⟩
    · rw [same.gpioRsv, same.iomuxRsv, State.tableEmpty_congr table]
      refine inv.absent absent fun d h => ?_
      by_cases e : d = c
      · subst e
        exact wasFirst h
      · have unchanged : t.ctx d = s.ctx d := (ctx d).trans (if_neg e)
        have := allFirst d
        rw [State.lifecycleIn, unchanged] at this
        exact this h
    · exact absurd (absent.symm.trans built) Bool.false_ne_true
  case users =>
    rw [ctx d, same.constructed]
    split
    · exact fun h _ _ => user h.1
    · exact inv.users d i

/-- A turn of a context that runs a lifecycle command, the only one in flight: what its phase table has to say. -/
theorem LifecycleInv.of_only (only : ∀ d, d ≠ c → ¬s.lifecycleIn d) (ctx : ∀ d, t.ctx d = if d = c then x else s.ctx d)
    (own : ∀ i, x.runs i → i = .init ∨ i = .teardown)
    (built : t.constructed = true →
      t.gpioRsv = true ∧ t.iomuxRsv = true ∧ t.regionInSpace t.gpioBase ∧ t.regionInSpace t.iomuxBase)
    (init : x.runs .init → InitStage t x.phase.toNat)
    (teardown : x.runs .teardown → TeardownStage t x.phase.toNat x.k.toNat)
    (absent : t.constructed = false → (x.busy = true → x.phase = 0) → t.gpioRsv = false ∧ t.iomuxRsv = false ∧ t.tableEmpty)
    (users : ∀ d i, d ≠ c → (s.ctx d).runs i → i ≠ .init → i ≠ .teardown → (s.ctx d).phase ≠ 0 → t.constructed = true)
    (running : x.busy = true → x.runs .init ∨ x.runs .teardown) : LifecycleInv t := by
  refine { built := built, init := fun d => ?init, teardown := fun d => ?teardown, absent := fun gone allFirst => ?absent,
           users := fun d i => ?users }
  case init =>
    rw [ctx d]
    split
    · exact init
    · next other => exact fun h => absurd (.inl h) (only d other)
  case teardown =>
    rw [ctx d]
    split
    · exact teardown
    · next other => exact fun h => absurd (.inr h) (only d other)
  case absent =>
    refine absent gone fun busy => ?_
    have := allFirst c
    rw [State.lifecycleIn, ctx c, if_pos rfl] at this
    exact this (running busy)
  case users =>
    rw [ctx d]
    split
    · intro h notInit notTeardown
      rcases own i h with e | e
      · exact absurd e notInit
      · exact absurd e notTeardown
    · next other => exact users d i other

end Replaced

/-! ### Rows -/

section Rows

variable {i : Instr} {s u : State} {x : Context}

theorem Row.ctx (r : Row s i u x) (inRange : s.cur < s.ctxs.length) (d : Nat) :
    (u.withSelf x).ctx d = if d = s.cur then x else s.ctx d :=
  State.ctx_of_set (by rw [State.withSelf_ctxs, r.surroundings.ctxs, r.surroundings.cur]) inRange d

theorem Row.runs (r : Row s i u x) (command : decode s.self.cmd = .ok i) {j : Instr} (h : x.runs j) : j = i := by
  have command' : decode x.cmd = .ok j := h.2
  rw [r.cmd, command] at command'
  exact (Except.ok.inj command').symm

/-- Past its dispatch check a user runs on a controller that exists; no row but one past the first changes the table. -/
theorem Row.user (r : Row s i u x) (notInit : i ≠ .init) (notTeardown : i ≠ .teardown) :
    (x.busy = true → x.phase ≠ 0 → s.constructed = true ∨ s.self.phase ≠ 0) ∧
      (u.origValid = s.origValid ∨ s.self.phase ≠ 0) := by
  have past {p : Nat} (row : s.self.phase.toNat = p + 1) : s.self.phase ≠ 0 := fun first => by simp [first] at row
  cases r with
  | codec | notReady | released | refused | firstReadAnswered | diagSkipped | dumpAnswered =>
    exact ⟨fun busy => absurd busy Bool.false_ne_true, .inl rfl⟩
  | diagAnswered _ read => exact ⟨fun busy => absurd busy Bool.false_ne_true, by rcases read with rfl | rfl <;> exact .inl rfl⟩
  | reqRecorded row | freeDropped row => exact ⟨fun busy => absurd busy Bool.false_ne_true, .inr (past row)⟩
  | held => exact ⟨fun _ moved => .inr moved, .inl rfl⟩
  | acquired _ _ _ built =>
    refine ⟨fun _ _ => ?_, .inl rfl⟩
    by_cases first : s.self.phase.toNat = 0
    · exact .inl (built first)
    · exact .inr fun e => first (by rw [e]; rfl)
  | pinRead row =>
    refine ⟨fun _ _ => .inr fun first => ?_, .inl rfl⟩
    rw [first] at row
    cases i <;> simp [readRow] at row
  | freeRestored row | setlWritten row | doutWritten row | dinWritten row | dumpSkipped row | dumpLabelled row =>
    exact ⟨fun _ _ => .inr (past row), .inl rfl⟩
  | dumpGpioRead row read | dumpEmitted row read =>
    exact ⟨fun _ _ => .inr (past row), by rcases read with rfl | rfl <;> exact .inl rfl⟩
  | doutInputRead _ built | diagLabelled _ built | dumpBegun _ built => exact ⟨fun _ _ => .inl built, .inl rfl⟩
  | initAlready | initUnsupported | initBegun | initIndexed | initByteRead | initRejected | initBased | initGpioGranted
  | initGpioDenied | initIomuxGranted | initIomuxDenied | initRolledBack | initConstructed => exact absurd rfl notInit
  | teardownBegun | teardownLoopEnds | teardownRestored | teardownSkipped | teardownReleased | teardownIomuxReleased
  | teardownAnswered => exact absurd rfl notTeardown

/-- A row of a command that uses the controller. -/
theorem LifecycleInv.userRow (inv : LifecycleInv s) (orderly : Orderly s) (inRange : s.cur < s.ctxs.length)
    (running : s.self.runs i) (notInit : i ≠ .init) (notTeardown : i ≠ .teardown) (r : Row s i u x) :
    LifecycleInv (u.withSelf x) := by
  have past (moved : s.self.phase ≠ 0) : s.constructed = true := inv.users s.cur i running notInit notTeardown moved
  obtain ⟨constructed, gpioRsv, iomuxRsv⟩ := r.lifecycle notInit notTeardown
  obtain ⟨gpioBase, iomuxBase, _⟩ := r.bases notInit
  obtain ⟨goesOn, table⟩ := r.user notInit notTeardown
  have notLifecycle {x : Context} (own : ∀ j, x.runs j → j = i) : ¬(x.runs .init ∨ x.runs .teardown) := fun h =>
    h.elim (fun h => notInit (own _ h).symm) (fun h => notTeardown (own _ h).symm)
  refine inv.replace (r.ctx inRange) ⟨constructed, gpioRsv, iomuxRsv, gpioBase, iomuxBase, r.surroundings.params⟩ ?table
    (fun h => absurd h (notLifecycle fun _ => (Context.runs_unique · running)))
    (fun h => absurd h (notLifecycle fun _ => r.runs running.2)) fun busy moved => (goesOn busy moved).elim id past
  case table =>
    refine table.imp_right fun moved => ⟨past moved, fun d other teardown => other ?_⟩
    exact (orderly.quietTeardown d s.cur teardown running.1).symm

end Rows

/-- An answer that changes none of the registers the invariant speaks of, by a command that has not started on them. -/
theorem LifecycleInv.answered {s : State} (inv : LifecycleInv s) (inRange : s.cur < s.ctxs.length)
    (notStarted : s.lifecycleIn s.cur → s.self.phase = 0) {x : Context} (idle : x.busy = false) : LifecycleInv (s.withSelf x) := by
  have ended {P : Prop} (busy : x.busy = true) : P := absurd (idle.symm.trans busy) Bool.false_ne_true
  exact inv.replace (State.ctx_of_set rfl inRange) ⟨rfl, rfl, rfl, rfl, rfl, rfl⟩ (.inl rfl) notStarted
    (fun h => h.elim (fun h => ended h.1) fun h => ended h.1) fun busy _ => ended busy

/-! ### INIT (R141 to R149) -/

section InitRows

variable {s u : State} {x : Context}

/-- Before the first request is granted INIT holds nothing, at whichever row it stands. -/
theorem InitStage.early {p q : Nat} {t : State} (stage : InitStage s p) (started : 1 ≤ p) (before : p ≤ 4) (early : q ≤ 4)
    (constructed : t.constructed = s.constructed := by rfl) (gpioRsv : t.gpioRsv = s.gpioRsv := by rfl)
    (iomuxRsv : t.iomuxRsv = s.iomuxRsv := by rfl) (table : t.origValid = s.origValid := by rfl) : InitStage t q := by
  obtain ⟨absent, empty⟩ := stage.notYet started
  obtain ⟨noGpio, noIomux⟩ := stage.none started before
  exact {
    notYet := fun _ => ⟨constructed.trans absent, (State.tableEmpty_congr table).2 empty⟩
    none := fun _ _ => ⟨gpioRsv.trans noGpio, iomuxRsv.trans noIomux⟩
    gpioOnly := fun h => absurd h (by omega)
    both := fun h => absurd h (by omega) }

/-- The only lifecycle command in flight is the running context's. -/
theorem Orderly.only (orderly : Orderly s) (running : s.lifecycleIn s.cur) (d : Nat) (other : d ≠ s.cur) : ¬s.lifecycleIn d :=
  fun h => other (orderly.oneLifecycle d s.cur h running)

/-- While no controller exists no user of one is past its first row. -/
theorem LifecycleInv.no_users (inv : LifecycleInv s) (absent : s.constructed = false) {P : Prop} (d : Nat) (i : Instr)
    (running : (s.ctx d).runs i) (notInit : i ≠ .init) (notTeardown : i ≠ .teardown) (moved : (s.ctx d).phase ≠ 0) : P :=
  absurd (absent.symm.trans (inv.users d i running notInit notTeardown moved)) Bool.false_ne_true

/-- A row of INIT after which it runs on, at a row whose stage it has reached. -/
theorem LifecycleInv.initGoesOn (inv : LifecycleInv s) (orderly : Orderly s) (inRange : s.cur < s.ctxs.length)
    (running : s.self.runs .init) (absent : s.constructed = false) (r : Row s .init u x) (goesOn : x.busy = true)
    (moved : x.phase ≠ 0) (stage : InitStage (u.withSelf x) x.phase.toNat) : LifecycleInv (u.withSelf x) := by
  have past : 1 ≤ x.phase.toNat := Nat.pos_of_ne_zero fun h => moved (BitVec.eq_of_toNat_eq h)
  have absent' : (u.withSelf x).constructed = false := (stage.notYet past).1
  have own : x.runs .init := ⟨goesOn, by rw [r.cmd]; exact running.2⟩
  exact .of_only (orderly.only (.inl running)) (r.ctx inRange) (fun _ h => .inl (r.runs running.2 h))
    (fun built => absurd (absent'.symm.trans built) Bool.false_ne_true) (fun _ => stage)
    (fun h => absurd (r.runs running.2 h) (by simp)) (fun _ first => absurd (first goesOn) moved)
    (fun d i _ => inv.no_users absent d i) fun _ => .inl own

/-- A row of INIT that answers: the controller is there, or nothing is held. -/
theorem LifecycleInv.initEnds (inv : LifecycleInv s) (orderly : Orderly s) (inRange : s.cur < s.ctxs.length)
    (running : s.self.runs .init) (absent : s.constructed = false) (r : Row s .init u x) (idle : x.busy = false)
    (built : u.constructed = true →
      u.gpioRsv = true ∧ u.iomuxRsv = true ∧ u.regionInSpace u.gpioBase ∧ u.regionInSpace u.iomuxBase)
    (nothing : u.constructed = false → u.gpioRsv = false ∧ u.iomuxRsv = false ∧ u.tableEmpty) :
    LifecycleInv (u.withSelf x) := by
  have ended {i : Instr} {P : Prop} (h : x.runs i) : P := absurd (idle.symm.trans h.1) Bool.false_ne_true
  exact .of_only (orderly.only (.inl running)) (r.ctx inRange) (fun _ => ended) built ended ended
    (fun absent _ => nothing absent) (fun d i _ => inv.no_users absent d i)
    fun busy => absurd (idle.symm.trans busy) Bool.false_ne_true

theorem LifecycleInv.initRow (inv : LifecycleInv s) (orderly : Orderly s) (inRange : s.cur < s.ctxs.length)
    (running : s.self.runs .init) (r : Row s .init u x) : LifecycleInv (u.withSelf x) := by
  have stage : InitStage s s.self.phase.toNat := inv.init s.cur running
  have goesOn := fun absent => inv.initGoesOn orderly inRange running absent r
  have ends := fun absent => inv.initEnds orderly inRange running absent r
  cases r with
  | held row | acquired row | pinRead row | released row | refused row | firstReadAnswered _ row => cases row
  | codec _ _ notInit => exact absurd rfl notInit
  | notReady _ needs => cases needs
  | initAlready first | initUnsupported first =>
    exact inv.answered inRange (fun _ => State.eq_zero_of_toNat_phase first) rfl
  | initBegun first absent =>
    obtain ⟨noGpio, noIomux, empty⟩ := inv.absent absent fun d h => by
      rw [orderly.oneLifecycle d s.cur h (.inl running)]
      exact State.eq_zero_of_toNat_phase first
    have begun : InitStage ((s.setLocRaw 0).withSelf { s.self with k := 0, phase := 1 }) 1 :=
      { notYet := fun _ => ⟨absent, empty⟩
        none := fun _ _ => ⟨noGpio, noIomux⟩
        gpioOnly := fun h => absurd h (by omega)
        both := fun h => absurd h (by omega) }
    exact goesOn absent running.1 (by simp) begun
  | initIndexed row | initBased row =>
    have absent := (stage.notYet (by omega)).1
    exact goesOn absent running.1 (by simp) (stage.early (by omega) (by omega) (by simp))
  | initByteRead row =>
    have absent := (stage.notYet (by omega)).1
    refine goesOn absent running.1 ?_ (stage.early (by omega) (by omega) ?_) <;> dsimp only <;> split <;> simp
  | initRejected row | initGpioDenied row =>
    obtain ⟨absent, empty⟩ := stage.notYet (by omega)
    obtain ⟨noGpio, noIomux⟩ := stage.none (by omega) (by omega)
    exact ends absent rfl (fun built => absurd (absent.symm.trans built) Bool.false_ne_true) fun _ => ⟨noGpio, noIomux, empty⟩
  | initGpioGranted row granted =>
    obtain ⟨absent, empty⟩ := stage.notYet (by omega)
    obtain ⟨_, noIomux⟩ := stage.none (by omega) (by omega)
    have reserved : InitStage ((s.drew.setGpioRsv true).withSelf (s.self.atRow 5)) 5 :=
      { notYet := fun _ => ⟨absent, empty⟩
        none := fun _ h => absurd h (by omega)
        gpioOnly := fun _ _ => ⟨rfl, noIomux, State.arbiterGrants_inSpace granted⟩
        both := fun h => absurd h (by omega) }
    exact goesOn absent running.1 (by simp) reserved
  | initIomuxGranted row granted =>
    obtain ⟨absent, empty⟩ := stage.notYet (by omega)
    obtain ⟨gpioHeld, _, gpioInSpace⟩ := stage.gpioOnly (by omega) (by omega)
    have reserved : InitStage ((s.drew.setIomuxRsv true).withSelf (s.self.atRow 7)) 7 :=
      { notYet := fun _ => ⟨absent, empty⟩
        none := fun _ h => absurd h (by omega)
        gpioOnly := fun _ h => absurd h (by omega)
        both := fun _ => ⟨gpioHeld, rfl, gpioInSpace, State.arbiterGrants_inSpace granted⟩ }
    exact goesOn absent running.1 (by simp) reserved
  | initIomuxDenied row =>
    obtain ⟨absent, empty⟩ := stage.notYet (by omega)
    have denied : InitStage (s.drew.withSelf (s.self.atRow 6)) 6 :=
      { notYet := fun _ => ⟨absent, empty⟩
        none := fun _ h => absurd h (by omega)
        gpioOnly := fun _ _ => stage.gpioOnly (by omega) (by omega)
        both := fun h => absurd h (by omega) }
    exact goesOn absent running.1 (by simp) denied
  | initRolledBack row =>
    obtain ⟨absent, empty⟩ := stage.notYet (by omega)
    obtain ⟨_, noIomux, _⟩ := stage.gpioOnly (by omega) (by omega)
    exact ends absent rfl (fun built => absurd (absent.symm.trans built) Bool.false_ne_true) fun _ => ⟨rfl, noIomux, empty⟩
  | initConstructed row =>
    obtain ⟨absent, _⟩ := stage.notYet (by omega)
    exact ends absent rfl (fun _ => stage.both row) fun gone => absurd gone.symm Bool.false_ne_true

end InitRows

/-! ### TEARDOWN (R150) -/

section TeardownRows

variable {s u : State} {x : Context}

/-- While a TEARDOWN is in flight no other context is busy (R256). -/
theorem Orderly.quiet (orderly : Orderly s) (running : s.self.runs .teardown) (d : Nat) (other : d ≠ s.cur) :
    (s.ctx d).busy = false := by
  by_contra busy
  exact other (orderly.quietTeardown s.cur d running (by simpa using busy))

/-- A row of TEARDOWN past its dispatch check: no controller, and what the row it goes on to says, or nothing held. -/
theorem LifecycleInv.teardownGone (orderly : Orderly s) (inRange : s.cur < s.ctxs.length)
    (running : s.self.runs .teardown) (r : Row s .teardown u x) (gone : u.constructed = false)
    (stage : x.busy = true → x.phase ≠ 0 ∧ TeardownStage (u.withSelf x) x.phase.toNat x.k.toNat)
    (nothing : x.busy = false → u.gpioRsv = false ∧ u.iomuxRsv = false ∧ u.tableEmpty) : LifecycleInv (u.withSelf x) := by
  refine .of_only (orderly.only (.inr running)) (r.ctx inRange) (fun _ h => .inr (r.runs running.2 h))
    (fun built => absurd (gone.symm.trans built) Bool.false_ne_true) (fun h => absurd (r.runs running.2 h) (by simp))
    (fun h => (stage h.1).2) (fun _ first => ?nothing) (fun d i other h => ?users)
    fun busy => .inr ⟨busy, by rw [r.cmd]; exact running.2⟩
  case nothing =>
    refine nothing ?_
    by_contra busy
    have busy : x.busy = true := by simpa using busy
    exact (stage busy).1 (first busy)
  case users => exact absurd ((orderly.quiet running d other).symm.trans h.1) Bool.false_ne_true

theorem State.valid_of_ge (s : State) {j : Nat} (h : 256 ≤ j) : s.valid j = false := by simp [State.valid, h]

/-- One pin more is restored: the loop's next counter is at most one higher. -/
theorem TeardownStage.loop {t : State} {k : BitVec 9} (stage : TeardownStage s 1 k.toNat)
    (constructed : t.constructed = s.constructed) (gpioRsv : t.gpioRsv = s.gpioRsv) (iomuxRsv : t.iomuxRsv = s.iomuxRsv)
    (below : ∀ j, s.valid j = false → t.valid j = false) (here : t.valid k.toNat = false) :
    TeardownStage t 1 (k + 1).toNat where
  gone := fun h => constructed.trans (stage.gone h)
  stillHeld := by rw [gpioRsv, iomuxRsv]; exact stage.stillHeld
  restoredBelow := fun _ j inLoop => by
    by_cases now : j = k.toNat
    · rw [now]
      exact here
    · exact below j (stage.restoredBelow rfl j (by bv_omega))
  restoredAll := fun h => absurd h (by omega)
  gpioOnly := fun h => absurd h (by omega)

theorem LifecycleInv.teardownRow (inv : LifecycleInv s) (orderly : Orderly s) (inRange : s.cur < s.ctxs.length)
    (running : s.self.runs .teardown) (r : Row s .teardown u x) : LifecycleInv (u.withSelf x) := by
  have stage : TeardownStage s s.self.phase.toNat s.self.k.toNat := inv.teardown s.cur running
  have gone := LifecycleInv.teardownGone orderly inRange running r
  have stillBusy {P : Prop} (idle : s.self.busy = false) : P := absurd (idle.symm.trans running.1) Bool.false_ne_true
  cases r with
  | pinRead row | firstReadAnswered _ row | refused row => cases row
  | acquired _ notTeardown => exact absurd rfl notTeardown
  | released row => cases row
  | codec _ unchecked => cases unchecked
  | held =>
    rw [s.withSelf_self_eq]
    exact inv
  | notReady first => exact inv.answered inRange (fun _ => State.eq_zero_of_toNat_phase first) rfl
  | teardownBegun first built free =>
    obtain ⟨gpioHeld, iomuxHeld, _, _⟩ := inv.built built
    have begun : TeardownStage (((s.setLock (some s.cur)).setConstructed false).withSelf
        { s.self with k := 0, n := 0, phase := 1 }) 1 0 :=
      { gone := fun _ => rfl
        stillHeld := fun _ _ => ⟨gpioHeld, iomuxHeld⟩
        restoredBelow := fun _ j h => absurd h (by omega)
        restoredAll := fun h => absurd h (by omega)
        gpioOnly := fun h => absurd h (by omega) }
    exact gone rfl (fun _ => ⟨by simp, begun⟩) stillBusy
  | teardownLoopEnds row atEnd =>
    rw [row, atEnd] at stage
    have restored : s.tableEmpty := fun j => by
      by_cases inBank : j < Config.nPin
      · exact stage.restoredBelow rfl j inBank
      · exact s.valid_of_ge (not_lt.mp inBank)
    have ended : TeardownStage (s.withSelf (s.self.atRow 2)) 2 s.self.k.toNat :=
      { gone := fun _ => stage.gone (by omega)
        stillHeld := fun _ _ => stage.stillHeld (by omega) (by omega)
        restoredBelow := fun h => absurd h (by omega)
        restoredAll := fun _ => restored
        gpioOnly := fun h => absurd h (by omega) }
    exact gone (stage.gone (by omega)) (fun _ => ⟨by simp, ended⟩) stillBusy
  | teardownRestored row _ _ =>
    have moved : s.self.phase ≠ 0 := fun h => by simp [h] at row
    rw [row] at stage
    refine gone (stage.gone (by omega)) (fun _ => ⟨moved, ?_⟩) stillBusy
    dsimp only
    rw [row]
    refine stage.loop rfl rfl rfl (fun j restored => ?_) ?_ <;> rw [State.withSelf_valid, State.valid_dropOriginal]
    · split
      · rfl
      · exact restored
    · exact if_pos rfl
  | teardownSkipped row _ notRequested =>
    have moved : s.self.phase ≠ 0 := fun h => by simp [h] at row
    rw [row] at stage
    refine gone (stage.gone (by omega)) (fun _ => ⟨moved, ?_⟩) stillBusy
    dsimp only
    rw [row]
    exact stage.loop rfl rfl rfl (fun _ => id) notRequested
  | teardownReleased row owned =>
    have released : TeardownStage ((s.setLock none).withSelf (s.self.atRow 3)) 3 s.self.k.toNat :=
      { gone := fun _ => stage.gone (by omega)
        stillHeld := fun _ _ => stage.stillHeld (by omega) (by omega)
        restoredBelow := fun h => absurd h (by omega)
        restoredAll := fun _ => stage.restoredAll (by omega)
        gpioOnly := fun h => absurd h (by omega) }
    exact gone (stage.gone (by omega)) (fun _ => ⟨by simp, released⟩) stillBusy
  | teardownIomuxReleased row =>
    have released : TeardownStage ((s.setIomuxRsv false).withSelf (s.self.atRow 4)) 4 s.self.k.toNat :=
      { gone := fun _ => stage.gone (by omega)
        stillHeld := fun _ h => absurd h (by omega)
        restoredBelow := fun h => absurd h (by omega)
        restoredAll := fun _ => stage.restoredAll (by omega)
        gpioOnly := fun _ => ⟨(stage.stillHeld (by omega) (by omega)).1, rfl⟩ }
    exact gone (stage.gone (by omega)) (fun _ => ⟨by simp, released⟩) stillBusy
  | teardownAnswered row =>
    exact gone (stage.gone (by omega)) (fun busy => absurd busy Bool.false_ne_true)
      fun _ => ⟨rfl, (stage.gpioOnly row).2, stage.restoredAll (by omega)⟩

end TeardownRows

/-! ### Turns -/

section Turns

variable {s t : State}

theorem LifecycleInv.microStep (inv : LifecycleInv s) (orderly : Orderly s) (running : s.self.busy = true)
    (h : microStep s = .next t) : LifecycleInv t := by
  have inRange := State.cur_lt_of_busy running
  cases command : decode s.self.cmd with
  | ok i =>
    rw [microStep_of_ok command] at h
    obtain ⟨u, x, r, rfl⟩ := exec_row h
    have runs : s.self.runs i := ⟨running, command⟩
    by_cases init : i = .init
    · subst init
      exact inv.initRow orderly inRange runs r
    · by_cases teardown : i = .teardown
      · subst teardown
        exact inv.teardownRow orderly inRange runs r
      · exact inv.userRow orderly inRange runs init teardown r
  | error m =>
    rw [microStep_of_error command] at h
    cases h
    have noCommand (i : Instr) : ¬s.self.runs i := fun h => by
      have := h.2
      rw [command] at this
      cases this
    exact inv.answered inRange (fun h => h.elim (absurd · (noCommand _)) (absurd · (noCommand _))) rfl

/-- An accepted command has not started on anything (R90). -/
theorem LifecycleInv.issue (inv : LifecycleInv s) {c : Nat} (inRange : c < s.ctxs.length) (idle : (s.ctx c).busy = false)
    (w : Word) : LifecycleInv (s.issue c w) :=
  inv.replace (State.ctx_of_set rfl inRange) ⟨rfl, rfl, rfl, rfl, rfl, rfl⟩ (.inl rfl)
    (fun h => h.elim (fun h => absurd (idle.symm.trans h.1) Bool.false_ne_true)
      fun h => absurd (idle.symm.trans h.1) Bool.false_ne_true)
    (fun _ => rfl) fun _ moved => absurd rfl moved

theorem LifecycleInv.runContext (inv : LifecycleInv s) (orderly : Orderly s) {c : Nat} (h : runContext c s = .next t) :
    LifecycleInv t := by
  have turn : LifecycleInv (s.setCur c) := inv.congr ⟨rfl, rfl, rfl, rfl, rfl, rfl⟩ rfl rfl
  unfold Machine.runContext at h
  split at h
  next inRange =>
    split at h
    next running => exact turn.microStep (orderly.congr rfl) running h
    next notRunning =>
      have idle : (s.ctx c).busy = false := by simpa using notRunning
      split at h
      · cases h
        exact turn
      next w ws _ =>
        cases h
        have accepting : LifecycleInv ((s.setCur c).setCallers (s.callers.set c ws)) :=
          inv.congr ⟨rfl, rfl, rfl, rfl, rfl, rfl⟩ rfl rfl
        exact accepting.issue inRange idle w
  next =>
    cases h
    exact inv

theorem lifecycleInv_glcReset (s : State) : LifecycleInv s.glcReset := by
  have notRunning (c : Nat) (i : Instr) : ¬(s.glcReset.ctx c).runs i := by
    rw [State.glcReset_ctx]
    exact not_runs_idle i
  exact {
    built := fun h => absurd h Bool.false_ne_true
    init := fun c h => absurd h (notRunning c _)
    teardown := fun c h => absurd h (notRunning c _)
    absent := fun _ _ => ⟨rfl, rfl, State.glcReset_valid s⟩
    users := fun c i h => absurd h (notRunning c i) }

theorem LifecycleInv.takeTurn (inv : LifecycleInv s) (orderly : Orderly s) {e : Event} (h : takeTurn e s = .next t) :
    LifecycleInv t := by
  cases e with
  | run c => exact inv.runContext orderly h
  | reset => cases h; exact lifecycleInv_glcReset s
  | pad _ _ | arbiter _ | chip _ _ _ | strap _ | chipsetReset _ _ _ _ =>
    cases h
    exact inv.congr ⟨rfl, rfl, rfl, rfl, rfl, rfl⟩ rfl rfl
  | envGpio _ _ | envIomux _ _ | envPmidx _ | envPmreg _ _ =>
    cases h
    split
    · exact inv.congr ⟨rfl, rfl, rfl, rfl, rfl, rfl⟩ rfl rfl
    · exact inv

end Turns

/-- Settles O55: a context's row goes by its phase table; no other agent touches the controller. -/
theorem lifecycleInvariantKept : Obligations.LifecycleInvariantKept := by
  intro s t _ orderly inv h _
  cases agenda : s.agenda with
  | nil =>
    simp only [step, nextStep, agenda] at h
    exact inv.runContext orderly h
  | cons e rest =>
    rw [step_of_agenda agenda] at h
    have turn : LifecycleInv (s.setAgenda rest) := inv.congr ⟨rfl, rfl, rfl, rfl, rfl, rfl⟩ rfl rfl
    exact turn.takeTurn (orderly.congr rfl) h

end Sys2Proof.Machine
end

section
/-! PROOFS of the turns, the buses and the lock (spec/20_memory.md R67, R68, R75, R77, R82, R83, spec/30_encoding.md R90,
spec/60_exceptions.md R214, spec/70_reset_and_hazards.md R242): what one turn runs, what one bus access returns or stores, and what the
turns of the environment change. -/

namespace Sys2Proof.Machine

/-! ### The turn of a context (R14, R90) -/

section Turn

variable {s : State} {c : Nat}

theorem runContext_eq_microStep (inRange : c < s.ctxs.length) (busy : (s.ctx c).busy = true) :
    runContext c s = microStep (s.setCur c) := by
  rw [runContext, if_pos inRange, if_pos busy]

/-- The turn of a busy context is a micro-step of the command its word names. -/
theorem runContext_of_busy {i : Instr} (inRange : c < s.ctxs.length) (busy : (s.ctx c).busy = true)
    (command : decode (s.ctx c).cmd = .ok i) : runContext c s = exec i (s.setCur c) :=
  (runContext_eq_microStep inRange busy).trans (microStep_of_ok (s := s.setCur c) command)

theorem runContext_of_waiting {w : Word} {ws : List Word} (inRange : c < s.ctxs.length) (idle : (s.ctx c).busy = false)
    (waiting : s.callers.getD c [] = w :: ws) :
    runContext c s = .next (((s.setCur c).setCallers (s.callers.set c ws)).issue c w) := by
  rw [runContext, if_pos inRange, if_neg (ne_true_of_eq_false idle), waiting]

theorem runContext_of_none (inRange : c < s.ctxs.length) (idle : (s.ctx c).busy = false) (none : s.callers.getD c [] = []) :
    runContext c s = .next (s.setCur c) := by
  rw [runContext, if_pos inRange, if_neg (ne_true_of_eq_false idle), none]

theorem step_of_empty (h : s.agenda = []) : step s = runContext s.nextTurn s := by simp only [step, nextStep, h]

end Turn

/-- Settles O5. -/
theorem stepRunsDecodedInstruction : Obligations.StepRunsDecodedInstruction := by
  intro s c i inRange busy command
  refine ⟨fun rest agenda => ?onAgenda, fun agenda turn => ?cyclic⟩
  case onAgenda =>
    rw [step_of_agenda agenda]
    exact runContext_of_busy (s := s.setAgenda rest) inRange busy command
  case cyclic =>
    rw [step_of_empty agenda, turn]
    exact runContext_of_busy inRange busy command

/-- Settles O6: the placed word is in context 0 and the turn put before the agenda is that context's. -/
theorem placedWordRunsNext : Obligations.PlacedWordRunsNext := by
  intro s w i inRange command
  have placed : BitVec.ofNat 16 (w.toNat % 2 ^ 16) = w := by rw [Nat.mod_eq_of_lt w.isLt, BitVec.ofNat_toNat, BitVec.setWidth_eq]
  have accepted : (s.issue 0 w).ctx 0 = { s.ctx 0 with cmd := w, busy := true, phase := 0 } :=
    (State.ctx_of_set rfl inRange 0).trans (if_pos rfl)
  rw [State.withFetchWord, placed, placeCommand, step_of_agenda rfl]
  refine runContext_of_busy (s := ((s.issue 0 w).setAgenda _).setAgenda s.agenda) ?_ ?_ ?_
  · simpa using inRange
  · simp [accepted]
  · simpa [accepted] using command

/-- Settles O7. -/
theorem idleContextIssues : Obligations.IdleContextIssues := by
  intro s c rest inRange agenda
  rw [step_of_agenda agenda]
  refine ⟨fun w ws idle waiting => ?accepts, fun idle none => ?nothing, fun t busy h => ?kept⟩
  case accepts => exact runContext_of_waiting (s := s.setAgenda rest) inRange idle waiting
  case nothing => exact runContext_of_none (s := s.setAgenda rest) inRange idle none
  case kept =>
    cases command : decode (s.ctx c).cmd with
    | ok i =>
      have h : exec i ((s.setAgenda rest).setCur c) = .next t :=
        (runContext_of_busy (s := s.setAgenda rest) inRange busy command).symm.trans h
      obtain ⟨u, x, r, rfl⟩ := exec_row h
      exact r.surroundings.callers
    | error m =>
      have micro := (runContext_eq_microStep (s := s.setAgenda rest) inRange busy).symm.trans h
      rw [microStep_of_error (s := (s.setAgenda rest).setCur c) command] at micro
      cases micro
      rfl

/-! ### The cyclic order of turns (log 3) -/

/-- From any place on the cycle every context comes round. -/
theorem exists_turn {n cur c : Nat} (h : c < n) : ∃ j, j < n ∧ (cur + 1 + j) % n = c := by
  have now : (cur + 1) % n < n := Nat.mod_lt _ (by omega)
  refine ⟨(c + n - (cur + 1) % n) % n, Nat.mod_lt _ (by omega), ?_⟩
  calc
    (cur + 1 + (c + n - (cur + 1) % n) % n) % n
      = ((cur + 1) % n + (c + n - (cur + 1) % n)) % n := by rw [Nat.add_mod_mod, Nat.mod_add_mod]
    _ = (c + n) % n := by congr 1; omega
    _ = c := by rw [Nat.add_mod_right, Nat.mod_eq_of_lt h]

/-- Settles O60: the turn found first in the cyclic order. -/
theorem emptyAgendaIsFair : Obligations.EmptyAgendaIsFair := by
  intro s c inRange active
  let turns := (List.range s.ctxs.length).map fun j => (s.cur + 1 + j) % s.ctxs.length
  obtain ⟨j, hj, comes⟩ := exists_turn (cur := s.cur) inRange
  have found : (turns.find? s.active).isSome := by
    rw [List.find?_isSome]
    exact ⟨c, List.mem_map.2 ⟨j, List.mem_range.2 hj, comes⟩, active⟩
  obtain ⟨d, hd⟩ := Option.isSome_iff_exists.1 found
  have next : s.nextTurn = d := by
    rw [State.nextTurn]
    exact (congrArg (·.getD s.cur) hd)
  obtain ⟨dActive, k, hk, atK, earlier⟩ := List.find?_eq_some_iff_getElem.1 hd
  have atK : (s.cur + 1 + k) % s.ctxs.length = d := by simpa [turns] using atK
  rw [next]
  refine ⟨?_, dActive, fun j hj jActive => ⟨k, ?_, atK.symm⟩⟩
  · rw [← atK]
    exact Nat.mod_lt _ (by omega)
  · by_contra before
    have := earlier j (by omega)
    simp [turns, jActive] at this

/-! ### The lock and `raise` (R77, R214) -/

theorem acquire_of_taken {s : State} (taken : s.lock ≠ none) (k : State → Result) : acquire s k = .next s := if_neg taken

theorem release_of_not_held {s : State} (notHeld : s.lock ≠ some s.cur) (k : State → Result) :
    release s k = .fault .releaseNotHeld :=
  if_neg notHeld

/-- Settles O18. -/
theorem lockAndRaise : Obligations.LockAndRaise := fun _ k =>
  ⟨fun free => acquire_of_free free k, fun _ taken => acquire_of_taken (by rw [taken]; exact Option.some_ne_none _) k,
    fun held => release_of_held held k, fun notHeld => release_of_not_held notHeld k, fun _ _ => rfl⟩

/-! ### The bits of a GPIO byte (R30, R67, R68) -/

/-- A mask beyond the byte is empty. -/
theorem getLsbD_bitMask_eq (k j : Nat) : (bitMask k).getLsbD j = (decide (j < 8) && decide (j = k)) := by
  rw [bitMask, ← BitVec.twoPow_eq, BitVec.getLsbD_twoPow]
  by_cases e : j = k
  · subst e
    simp
  · simp [e, Ne.symm e]

theorem getLsbD_and_not_bitMask (b : Byte) (k j : Nat) :
    (b &&& ~~~bitMask k).getLsbD j = if j = k then false else b.getLsbD j := by
  rw [BitVec.getLsbD_and, BitVec.getLsbD_not, getLsbD_bitMask_eq]
  by_cases inByte : j < 8
  · by_cases e : j = k <;> simp [inByte, e]
  · simp [BitVec.getLsbD_of_ge b j (not_lt.mp inByte)]

theorem and_bitMask_ne_zero_iff (b : Byte) (k : Nat) : b &&& bitMask k ≠ 0 ↔ b.getLsbD k = true := by
  have bits (j : Nat) : (b &&& bitMask k).getLsbD j = (decide (j = k) && b.getLsbD k) := by
    rw [BitVec.getLsbD_and, getLsbD_bitMask_eq]
    by_cases e : j = k
    · subst e
      simpa using BitVec.lt_of_getLsbD
    · simp [e]
  constructor
  · intro nonzero
    by_contra clear
    refine nonzero (BitVec.eq_of_getLsbD_eq fun j _ => ?_)
    rw [bits j, Bool.not_eq_true _ |>.mp clear, Bool.and_false]
    exact BitVec.getLsbD_zero.symm
  · intro set zero
    have := bits k
    rw [zero, set] at this
    simp at this

section Bits

variable (s : State) (i : Nat)

theorem getLsbD_gpioStored (j : Nat) :
    (s.gpioStored i).getLsbD j = if j = s.params.layout.inBit then false else (s.gpio.read i).getLsbD j :=
  getLsbD_and_not_bitMask _ _ _

/-- A read returns the stored bits and the sampled level (R67). -/
theorem getLsbD_gpioSampled (inByte : s.params.layout.inBit < 8) (j : Nat) :
    (s.gpioSampled i).getLsbD j = if j = s.params.layout.inBit then s.padSample i else (s.gpio.read i).getLsbD j := by
  rw [State.gpioSampled, BitVec.getLsbD_or, getLsbD_gpioStored]
  have level : (if s.padSample i then maskIn s.params.layout else 0).getLsbD j =
      (s.padSample i && decide (j = s.params.layout.inBit)) := by
    cases s.padSample i
    · exact BitVec.getLsbD_zero
    · exact getLsbD_bitMask inByte j
  rw [level]
  by_cases e : j = s.params.layout.inBit <;> simp [e]

/-- The level of a pin that loops back is the one it drives (R83). -/
theorem padSample_of_loopback (loops : s.params.padLoopback = true)
    (enabled : (s.gpio.read i).getLsbD s.params.layout.oebBit = false) :
    s.padSample i = (s.gpio.read i).getLsbD s.params.layout.outBit := by
  rw [State.padSample, loops, enabled]
  rfl

/-- The level of any other pin is its pad's (R83). -/
theorem padSample_of_pad (outside : s.params.padLoopback = false ∨ (s.gpio.read i).getLsbD s.params.layout.oebBit = true)
    {level : Bool} (driven : s.inputs.pads[i]? = some (some level)) : s.padSample i = level := by
  have notLooped : (s.params.padLoopback && !(s.gpio.read i).getLsbD s.params.layout.oebBit) = false := by
    rcases outside with h | h <;> simp [h]
  rw [State.padSample, notLooped, driven]
  rfl

end Bits

/-! ### The bus (R67, R68) -/

theorem State.locate_eq_none_iff (s : State) (a : Nat) :
    s.locate a = none ↔ ∀ i, i < 256 → a ≠ s.gpioBase.toNat + i ∧ a ≠ s.iomuxBase.toNat + i := by
  unfold State.locate
  constructor
  · intro h i inBank
    split at h
    · cases h
    · split at h
      · cases h
      · simp only [Config.nPin] at *
        omega
  · intro h
    have outsideGpio := fun inBank => (h (a - s.gpioBase.toNat) inBank).1
    have outsideIomux := fun inBank => (h (a - s.iomuxBase.toNat) inBank).2
    rw [if_neg (by simp only [Config.nPin]; omega), if_neg (by simp only [Config.nPin]; omega)]

/-- Settles O16. -/
theorem readSamplesThePad : Obligations.ReadSamplesThePad := by
  refine ⟨fun s i k inBank inByte => ⟨s.gpioSampled i, memRead_gpioAddr s inBank k, fun j other => ?stored,
      fun level outside driven => ?pad, fun loops enabled => ?loopback⟩,
    fun s i k inBank apart => memRead_iomuxAddr s inBank apart k, fun s a k outside => ?unmapped⟩
  case stored => rw [getLsbD_gpioSampled s i inByte, if_neg other]
  case pad => rw [getLsbD_gpioSampled s i inByte, if_pos rfl, padSample_of_pad s i outside driven]
  case loopback => rw [getLsbD_gpioSampled s i inByte, if_pos rfl, padSample_of_loopback s i loops enabled]
  case unmapped => rw [memRead, (s.locate_eq_none_iff a).2 outside]

/-- Settles O17. -/
theorem writeStoresOneGpioByte : Obligations.WriteStoresOneGpioByte := by
  refine ⟨fun s i v k inBank => ⟨s.storeGpio i v, memWrite_gpioAddr s inBank v k, rfl, fun j other _ => ?stored, ?dropped,
      fun a other => State.storedAt_of_store (s := s) (t := s.storeGpio i v) (v := v) rfl rfl rfl rfl rfl other,
      fun canonical => Memory.wf_write canonical _ _⟩,
    fun s a v k outside => ?unmapped⟩
  case stored =>
    rw [State.gpioStored_storeGpio, if_pos rfl]
    exact (getLsbD_and_not_bitMask _ _ _).trans (if_neg other)
  case dropped =>
    rw [State.gpioStored_storeGpio, if_pos rfl]
    exact (getLsbD_and_not_bitMask _ _ _).trans (if_pos rfl)
  case unmapped =>
    unfold memWrite
    split
    next i located =>
      have inBank : i < 256 := by
        by_contra beyond
        have same := State.eq_gpioAddr_of_locate located
        rw [same] at located
        exact beyond (State.locate_gpioAddr_eq located).1
      exact absurd (State.eq_gpioAddr_of_locate located) (outside i inBank)
    all_goals rfl

/-! ### The environment (R82, R242) -/

section Environment

variable (s : State) (gpio iomux pmreg : Memory) (pmidx : Byte)

/-- The chipset's reset writes the device registers only (R242). -/
theorem State.chipsetReset_eq :
    s.chipsetReset gpio iomux pmreg pmidx =
      { s with
        gpio := (s.chipsetReset gpio iomux pmreg pmidx).gpio
        iomux := (s.chipsetReset gpio iomux pmreg pmidx).iomux
        pmreg := (s.chipsetReset gpio iomux pmreg pmidx).pmreg
        pmidx := (s.chipsetReset gpio iomux pmreg pmidx).pmidx } := by
  simp only [State.chipsetReset]

theorem State.chipsetReset_gpioStored {i : Nat} (inBank : i < 256) :
    (s.chipsetReset gpio iomux pmreg pmidx).gpioStored i = stickyOr s gpio i := by
  have params : (s.chipsetReset gpio iomux pmreg pmidx).params = s.params := by rw [State.chipsetReset]
  rw [State.gpioStored, State.chipsetReset_gpio, params, Memory.read_tabulate _ inBank, stickyOr]
  have twice (b : Byte) : b &&& ~~~maskIn s.params.layout &&& ~~~maskIn s.params.layout = b &&& ~~~maskIn s.params.layout := by
    rw [BitVec.and_assoc, BitVec.and_self]
  split <;> exact twice _

end Environment

/-- Settles O58. -/
theorem chipsetResetKeepsSticky : Obligations.ChipsetResetKeepsSticky := by
  intro s rest g m r x agenda
  have files := FilesOk.chipsetReset (s.setAgenda rest) g m r x
  have sticky (i : Nat) := and_bitMask_ne_zero_iff (s.gpioStored i) s.params.layout.stickyBit
  refine ⟨(s.setAgenda rest).chipsetReset g m r x, step_of_agenda agenda, fun i inBank set => ?kept, fun i inBank clear => ?left,
    files.gpioCanonical, files.iomuxCanonical, files.pmregCanonical, State.chipsetReset_eq _ g m r x⟩
  case kept =>
    rw [State.chipsetReset_gpioStored _ g m r x inBank]
    exact if_pos ((sticky i).2 set)
  case left =>
    rw [State.chipsetReset_gpioStored _ g m r x inBank]
    exact if_neg fun nonzero => absurd (((sticky i).1 nonzero).symm.trans clear) (by decide)

/-- Settles O59. -/
theorem environmentByDefault : Obligations.EnvironmentByDefault := by
  intro s rest i v level byDefault
  refine ⟨fun agenda => ?others, fun agenda => ?pads⟩
  case others =>
    have permissions : (s.setAgenda rest).params.envStep = Params.default.envStep := byDefault
    rcases agenda with agenda | agenda | agenda | agenda <;> rw [step_of_agenda agenda, takeTurn, permissions] <;> rfl
  case pads =>
    refine ⟨_, step_of_agenda agenda, ?_, fun j other => ?_, rfl⟩
    · exact Vector.getElem?_setIfInBounds_self_of_lt i.isLt
    · simp [Vector.getElem?_setIfInBounds_ne (Ne.symm other)]

end Sys2Proof.Machine
end

section
/-! PROOFS of the rows that take no step (spec/10_state.md R41, spec/20_memory.md R77; logs 12 to 14): a phase beyond the table, an
`Acquire` while the lock is not free, a `Release` without the lock. -/

namespace Sys2Proof.Machine

/-! ### A phase beyond the table (R41) -/

section Outside

variable {i : Instr} {s : State}

theorem respondCodec_outside {d : Data} (outside : 0 < s.self.phase.toNat) : respondCodec s d = noSuchPhase s := by
  unfold respondCodec
  split
  next row => simp [row] at outside
  next => rfl

theorem exec_outside (outside : lastPhase i < s.self.phase.toNat) : exec i s = noSuchPhase s := by
  cases i with
  | req pin =>
    change execReq pin s = _
    unfold execReq
    split
    case h_4 => rfl
    all_goals simp [*, lastPhase] at outside
  | free pin =>
    change execFree pin s = _
    unfold execFree
    split
    case h_4 => rfl
    all_goals simp [*, lastPhase] at outside
  | getl pin =>
    change execGetl pin s = _
    unfold execGetl
    split
    case h_2 => rfl
    all_goals simp [*, lastPhase] at outside
  | getd pin =>
    change execGetd pin s = _
    unfold execGetd
    split
    case h_2 => rfl
    all_goals simp [*, lastPhase] at outside
  | setl pin v =>
    change execSetl pin v s = _
    unfold execSetl
    split
    case h_5 => rfl
    all_goals simp [*, lastPhase] at outside
  | dout pin v =>
    change execDout pin v s = _
    unfold execDout
    split
    case h_6 => rfl
    all_goals simp [*, lastPhase] at outside
  | din pin =>
    change execDin pin s = _
    unfold execDin
    split
    case h_5 => rfl
    all_goals simp [*, lastPhase] at outside
  | diag pin =>
    change execDiag pin s = _
    unfold execDiag
    split
    case h_4 => rfl
    all_goals simp [*, lastPhase] at outside
  | dump =>
    change execDump s = _
    unfold execDump
    split
    case h_5 => rfl
    all_goals simp [*, lastPhase] at outside
  | init =>
    change execInit s = _
    unfold execInit
    split
    case h_9 => rfl
    all_goals simp [*, lastPhase] at outside
  | teardown =>
    change execTeardown s = _
    unfold execTeardown
    split
    case h_6 => rfl
    all_goals simp [*, lastPhase] at outside
  | down _ | dpull _ | dmux _ | isout _ | rlvl _ | sout _ _ | sin _ => exact respondCodec_outside outside

end Outside

/-! ### The lock is not free, or not held (R77) -/

section Stuck

variable {s : State}

theorem needsController_acquire_of_taken (built : s.constructed = true) (taken : s.lock ≠ none) (k : State → Result) :
    needsController s (acquire s k) = .next s :=
  (needsController_of_constructed built _).trans (acquire_of_taken taken k)

theorem exec_held {pin : Byte} {v : Bool} (row : AtRow s 0) (built : s.constructed = true) (taken : s.lock ≠ none) :
    exec (.req pin) s = .next s ∧ exec (.free pin) s = .next s ∧ exec (.setl pin v) s = .next s ∧
      exec (.din pin) s = .next s ∧ exec .teardown s = .next s := by
  have stays := needsController_acquire_of_taken built taken
  refine ⟨?_, ?_, ?_, ?_, ?_⟩
  · unfold exec execReq; rw [row.phase]; exact stays _
  · unfold exec execFree; rw [row.phase]; exact stays _
  · unfold exec execSetl; rw [row.phase]; exact stays _
  · unfold exec execDin; rw [row.phase]; exact stays _
  · unfold exec execTeardown; rw [row.phase]; exact stays _

theorem exec_dout_held {pin : Byte} {v : Bool} (row : AtRow s 1) (taken : s.lock ≠ none) : exec (.dout pin v) s = .next s := by
  unfold exec execDout
  rw [row.phase]
  exact acquire_of_taken taken _

theorem releaseOk_of_not_held (notHeld : s.lock ≠ some s.cur) (d : Data) : releaseOk s d = .fault .releaseNotHeld :=
  release_of_not_held notHeld _

/-- Where nothing has to be written the gate of DOUT and DIN is a `Release` row. -/
theorem changeDirection_of_not_held {pin t : Byte} {q : BitVec 4} (notHeld : s.lock ≠ some s.cur) (unchanged : t = s.self.b) :
    changeDirection pin t q s = .fault .releaseNotHeld := by
  rw [changeDirection, if_pos unchanged]
  exact releaseOk_of_not_held (s := s.upd _) notHeld 0

end Stuck

/-- Settles O29. -/
theorem heldAndStuckRows : Obligations.HeldAndStuckRows := by
  refine ⟨fun i s => exec_outside, fun i v s taken => ⟨fun row built => exec_held row built taken,
    fun row => exec_dout_held row taken⟩, fun i v s notHeld => ?stuck⟩
  case stuck =>
    have fails := fun d => releaseOk_of_not_held notHeld d
    have unchanged := fun {t q} => changeDirection_of_not_held (pin := i) (q := q) notHeld (t := t)
    refine ⟨fun row noConflict => ?_, fun row => ?_, fun row input safe => ?_, fun row => ?_, fun row same => ?_,
      fun row same => ?_, fun row => ?_, fun row => ?_, fun row => ?_⟩
    · unfold exec execReq
      rw [row]
      exact (if_neg noConflict).trans (releaseOk_of_not_held (s := s.saveOriginal _ _) notHeld _)
    · unfold exec execFree
      rw [row]
      exact releaseOk_of_not_held (s := s.dropOriginal _) notHeld _
    · unfold exec execSetl
      rw [row]
      exact (if_neg (by simp [input, safe])).trans (fails 0)
    · unfold exec execSetl; rw [row]; exact fails 0
    · unfold exec execDout; rw [row]; exact unchanged same
    · unfold exec execDin; rw [row]; exact unchanged same
    · unfold exec execDout; rw [row]; exact fails 0
    · unfold exec execDin; rw [row]; exact fails 0
    · unfold exec execTeardown; rw [row]; exact release_of_not_held notHeld _

end Sys2Proof.Machine
end

section
/-! PROOFS of the bounds on a command run alone (spec/70_reset_and_hazards.md R260). Each row but the last leaves fewer rows to go: a
command that no other agent disturbs is never held, so that it responds when none is left. -/

namespace Sys2Proof.Machine

/-! ### Running on -/

section Run

variable {n : Nat} {i : Instr} {s t : State}

theorem runAlone_of_goesOn (row : exec i s = .next t) (busy : t.self.busy = true) : runAlone (n + 1) i s = runAlone n i t := by
  simp only [runAlone, row, busy, if_true]

theorem runAlone_of_ends (row : exec i s = .next t) (idle : t.self.busy = false) : runAlone (n + 1) i s = .next t := by
  simp only [runAlone, row, idle, Bool.false_eq_true, if_false]

/-- A row of a command run alone: the run goes on, or is over. -/
theorem runAlone_succ_next (h : runAlone (n + 1) i s = .next t) :
    ∃ u, exec i s = .next u ∧ (u.self.busy = true ∧ runAlone n i u = .next t ∨ u.self.busy = false ∧ t = u) := by
  unfold runAlone at h
  split at h
  next u row =>
    refine ⟨u, row, ?_⟩
    split at h
    next busy => exact .inl ⟨busy, h⟩
    next idle =>
      cases h
      exact .inr ⟨by simpa using idle, rfl⟩
  all_goals cases h

end Run

theorem State.withSelf_self {s : State} (inRange : s.cur < s.ctxs.length) (x : Context) : (s.withSelf x).self = x :=
  s.upd_self inRange fun _ => x

/-! ### The rows still to go -/

/-- The most rows that command `i` has still to run, the next one included. -/
def rowsLeft : Instr → Context → Nat
  | .dump, x =>
    match x.phase.toNat with
    | 0 => 770
    | 1 => 3 * (256 - x.k.toNat) + 1
    | 2 => 3 * (256 - x.k.toNat)
    | _ => 3 * (256 - x.k.toNat) - 1
  | .init, x =>
    match x.phase.toNat with
    | 0 => 13
    | 1 => 2 * (4 - x.k.toNat) + 4
    | 2 => 2 * (4 - x.k.toNat) + 3
    | 7 => 1
    | p => 7 - p
  | .teardown, x =>
    match x.phase.toNat with
    | 0 => 261
    | 1 => 260 - x.k.toNat
    | p => 5 - p
  | i, x => lastPhase i + 1 - x.phase.toNat

theorem rowsLeft_of_loopless {i : Instr} (notDump : i ≠ .dump) (notInit : i ≠ .init) (notTeardown : i ≠ .teardown) (x : Context) :
    rowsLeft i x = lastPhase i + 1 - x.phase.toNat := by
  cases i with
  | dump => exact absurd rfl notDump
  | init => exact absurd rfl notInit
  | teardown => exact absurd rfl notTeardown
  | _ => rfl

/-- At its first row a command has its whole bound of R260 to go, at most. -/
theorem rowsLeft_of_first {i : Instr} {x : Context} (first : x.phase = 0) : rowsLeft i x ≤ microStepBound i := by
  cases i <;> simp [rowsLeft, lastPhase, microStepBound, first]

theorem dump_k_lt {x : Context} (late : 2 ≤ x.phase.toNat) (counters : countersOk .dump x = true) : x.k.toNat < 256 := by
  simp only [countersOk] at counters
  split at counters
  · omega
  · omega
  · simp only [Bool.and_eq_true, decide_eq_true_eq] at counters
    exact counters.1.1

theorem teardown_k_le {x : Context} (loop : x.phase.toNat = 1) (counters : countersOk .teardown x = true) : x.k.toNat ≤ 256 := by
  simp only [countersOk, loop, Bool.and_eq_true, Bool.or_eq_true, decide_eq_true_eq] at counters
  exact (counters.resolve_left (by simp)).1

theorem init_k_lt {x : Context} (loop : x.phase.toNat = 1 ∨ x.phase.toNat = 2) (counters : countersOk .init x = true) :
    x.k.toNat < 4 := by
  rcases loop with row | row <;> simpa [countersOk, row] using counters

/-- A row on the table is itself still to run. -/
theorem rowsLeft_pos {i : Instr} {x : Context} (inTable : x.phase.toNat ≤ lastPhase i) (counters : countersOk i x = true) :
    0 < rowsLeft i x := by
  by_cases dump : i = .dump
  · subst dump
    have inLoop := dump_k_lt (counters := counters)
    dsimp only [rowsLeft]
    split
    · omega
    · omega
    next row =>
      have := inLoop row.ge
      omega
    next n0 n1 _ =>
      have := inLoop (by simp only [imp_false] at n0 n1; omega)
      omega
  · by_cases init : i = .init
    · subst init
      have inTable : x.phase.toNat ≤ 7 := inTable
      dsimp only [rowsLeft]
      split
      case h_5 =>
        simp only [imp_false] at *
        omega
      all_goals omega
    · by_cases teardown : i = .teardown
      · subst teardown
        have inTable : x.phase.toNat ≤ 4 := inTable
        dsimp only [rowsLeft]
        split
        · omega
        next row =>
          have := teardown_k_le row counters
          omega
        · omega
      · rw [rowsLeft_of_loopless dump init teardown]
        omega

section Rows

variable {i : Instr} {s u : State} {x : Context}

/-- A row that goes on, and is not held, leaves fewer rows to go. -/
theorem Row.rowsLeft_lt (r : Row s i u x) (inTable : s.self.phase.toNat ≤ lastPhase i) (counters : countersOk i s.self = true)
    (notHeld : acquireRow i = some s.self.phase.toNat → s.lock = none) (goesOn : x.busy = true) :
    rowsLeft i x < rowsLeft i s.self := by
  have next {q : BitVec 4} (loopless : i ≠ .dump ∧ i ≠ .init ∧ i ≠ .teardown) (moves : x.phase = q)
      (next : q.toNat = s.self.phase.toNat + 1) : rowsLeft i x < rowsLeft i s.self := by
    obtain ⟨dump, init, teardown⟩ := loopless
    rw [rowsLeft_of_loopless dump init teardown, rowsLeft_of_loopless dump init teardown, moves, next]
    omega
  cases r with
  | held row taken => exact absurd (notHeld row) taken
  | acquired row notTeardown _ _ succ =>
    exact next ⟨(by rintro rfl; cases row), (by rintro rfl; cases row), notTeardown⟩ rfl succ
  | pinRead row succ => exact next ⟨(by rintro rfl; cases row), (by rintro rfl; cases row), (by rintro rfl; cases row)⟩ rfl succ
  | freeRestored row | setlWritten row | doutInputRead row | doutWritten row | dinWritten row | diagLabelled row =>
    exact next ⟨by simp, by simp, by simp⟩ rfl (by rw [row]; rfl)
  | dumpBegun row => simp [rowsLeft, row]
  | dumpSkipped row more =>
    have inLoop : s.self.k.toNat < 256 := by
      simp only [countersOk, row, Bool.and_eq_true, decide_eq_true_eq] at counters
      exact lt_of_le_of_ne counters.1.1 more
    simp only [rowsLeft, row, toNat_succ inLoop.le]
    omega
  | dumpLabelled row more => simp [rowsLeft, row]
  | dumpGpioRead row =>
    have inLoop := dump_k_lt (by omega) counters
    simp only [rowsLeft, row, show (3 : BitVec 4).toNat = 3 from rfl]
    omega
  | dumpEmitted row =>
    have inLoop := dump_k_lt (by omega) counters
    simp only [rowsLeft, row, toNat_succ inLoop.le, show (1 : BitVec 4).toNat = 1 from rfl]
    omega
  | initBegun row => simp [rowsLeft, row]
  | initIndexed row =>
    simp only [rowsLeft, row, Context.atRow, show (2 : BitVec 4).toNat = 2 from rfl]
    omega
  | initByteRead row =>
    have inLoop := init_k_lt (.inr row) counters
    dsimp only
    split
    · simp only [rowsLeft, row, toNat_succ (by omega : s.self.k.toNat ≤ 256), show (1 : BitVec 4).toNat = 1 from rfl]
      omega
    · simp only [rowsLeft, row, show (3 : BitVec 4).toNat = 3 from rfl]
      omega
  | initBased row | initGpioGranted row | initIomuxGranted row | initIomuxDenied row => simp [rowsLeft, row, Context.atRow]
  | teardownBegun row => simp [rowsLeft, row]
  | teardownLoopEnds row atEnd => simp [rowsLeft, row, atEnd, Context.atRow, Config.nPin]
  | teardownRestored row inBank =>
    simp only [rowsLeft, row, toNat_succ inBank.le]
    have inLoop : s.self.k.toNat < 256 := inBank
    omega
  | teardownSkipped row more =>
    have inLoop : s.self.k.toNat < 256 := lt_of_le_of_ne (teardown_k_le row counters) more
    simp only [rowsLeft, row, toNat_succ inLoop.le]
    omega
  | teardownReleased row | teardownIomuxReleased row => simp [rowsLeft, row, Context.atRow]
  | codec | notReady | released | refused | reqRecorded | freeDropped | firstReadAnswered | diagSkipped | diagAnswered
  | dumpAnswered | initAlready | initUnsupported | initRejected | initGpioDenied | initRolledBack | initConstructed
  | teardownAnswered => exact absurd goesOn Bool.false_ne_true

/-! ### A command that nothing disturbs -/

/-- The running command stands on its table, and the lock is its own in its section and else free. -/
structure Undisturbed (i : Instr) (s : State) : Prop where
  running : s.self.busy = true
  inTable : s.self.phase.toNat ≤ lastPhase i
  counters : countersOk i s.self = true
  lock : s.lock = if holdsLock i s.self.phase.toNat then some s.cur else none

theorem Undisturbed.ready (h : Undisturbed i s) : Ready i s :=
  ⟨h.inTable, h.counters, fun inside => by rw [h.lock, if_pos inside]⟩

theorem Undisturbed.row (h : Undisturbed i s) (r : Row s i u x) (goesOn : x.busy = true) :
    Undisturbed i (u.withSelf x) ∧ rowsLeft i x < rowsLeft i s.self := by
  have inRange := State.cur_lt_of_busy h.running
  have self : (u.withSelf x).self = x :=
    State.withSelf_self (by rw [r.surroundings.cur, r.surroundings.ctxs]; exact inRange) x
  have outside (row : acquireRow i = some s.self.phase.toNat) : s.lock = none := by
    rw [h.lock, acquireRow_outside row]
    rfl
  obtain ⟨inTable, counters⟩ := r.onTable h.inTable h.counters goesOn
  refine ⟨⟨by rw [self, goesOn], by rw [self]; exact inTable, by rw [self]; exact counters, ?_⟩,
    r.rowsLeft_lt h.inTable h.counters outside goesOn⟩
  rw [self, State.withSelf_lock, State.withSelf_cur, r.surroundings.cur]
  cases r.lockMove h.running with
  | kept lock side =>
    rw [goesOn, Bool.true_and] at side
    rw [lock, h.lock, side]
  | taken _ lock inside =>
    rw [goesOn, Bool.true_and] at inside
    rw [lock, if_pos inside]
  | givenUp lock outside =>
    rw [goesOn, Bool.true_and] at outside
    rw [lock, outside, h.lock]
    split <;> simp_all

/-- A command that nothing disturbs responds when no row is left. -/
theorem Undisturbed.responds {n : Nat} (h : Undisturbed i s) (enough : rowsLeft i s.self ≤ n) :
    ∃ t, runAlone n i s = .next t ∧ t.self.busy = false := by
  induction n generalizing s with
  | zero => exact absurd enough (rowsLeft_pos h.inTable h.counters).not_ge
  | succ n ih =>
    obtain ⟨t, row⟩ := exec_goesOn h.ready
    cases busy : t.self.busy with
    | false => exact ⟨t, runAlone_of_ends row busy, busy⟩
    | true =>
      rw [runAlone_of_goesOn row busy]
      obtain ⟨u, x, r, rfl⟩ := exec_row row
      have self : (u.withSelf x).self = x :=
        State.withSelf_self (by rw [r.surroundings.cur, r.surroundings.ctxs]; exact State.cur_lt_of_busy h.running) x
      obtain ⟨next, fewer⟩ := h.row r (by rw [← self, busy])
      refine ih next ?_
      rw [self]
      omega

end Rows

theorem Accepted.undisturbed {s : State} (accepted : Accepted s) (free : s.lock = none) (i : Instr) : Undisturbed i s where
  running := accepted.busy
  inTable := by simp [accepted.phase]
  counters := by cases i <;> simp [countersOk, accepted.phase]
  lock := by
    have first : s.self.phase.toNat = 0 := congrArg BitVec.toNat accepted.phase
    rw [free, first, holdsLock_zero]
    rfl

/-- Settles O42. -/
theorem commandsRespondInBound : Obligations.CommandsRespondInBound := fun i _ accepted free =>
  (accepted.undisturbed free i).responds (rowsLeft_of_first accepted.phase)

end Sys2Proof.Machine
end

section
/-! PROOFS of the line commands run alone (spec/42_line_controller.md R163 to R170, spec/70_reset_and_hazards.md R254). What a run makes
of the state is put together from the rows of the tables, with the lock taken and freed again left out; what it makes of a GPIO byte is
read off its bits. -/

namespace Sys2Proof

theorem Layout.inBit_mem_keptBits (l : Layout) : l.inBit ∈ l.keptBits := by simp [Layout.keptBits]

theorem Layout.inBit_lt {l : Layout} (h : l.wellFormed = true) : l.inBit < 8 :=
  lt_of_mem_gpioBits h (by simp [Layout.gpioBits])

theorem Layout.inBit_ne {l : Layout} (h : l.wellFormed = true) : l.inBit ≠ l.oebBit ∧ l.inBit ≠ l.outBit :=
  ne_of_mem_keptBits h l.inBit_mem_keptBits

end Sys2Proof

namespace Sys2Proof.Machine

/-! ### Running from row to row -/

section Run

variable {n : Nat} {i : Instr} {s u : State} {x y : Context}

theorem atRow_withSelf (inRange : s.cur < s.ctxs.length) {p : BitVec 4} (phase : x.phase = p) : AtRow (s.withSelf x) p :=
  ⟨by simpa using inRange, by rw [State.withSelf_self inRange, phase]⟩

theorem runAlone_goesOn (row : exec i s = .next (u.withSelf x)) (inRange : u.cur < u.ctxs.length) (busy : x.busy = true) :
    runAlone (n + 1) i s = runAlone n i (u.withSelf x) :=
  runAlone_of_goesOn row (by rw [State.withSelf_self inRange, busy])

theorem runAlone_ends (row : exec i s = .next (u.withSelf x)) (inRange : u.cur < u.ctxs.length) (idle : x.busy = false) :
    runAlone (n + 1) i s = .next (u.withSelf x) :=
  runAlone_of_ends row (by rw [State.withSelf_self inRange, idle])

theorem State.withSelf_withSelf (s : State) (x y : Context) : (s.withSelf x).withSelf y = s.withSelf y :=
  s.upd_withSelf (fun _ => x) y

theorem State.setLock_of_eq {l : Option Nat} (h : s.lock = l) : s.setLock l = s := by rw [← h, s.setLock_eq_self]

/-- A locked section leaves nothing of the lock it took. -/
theorem State.unlock_withSelf (free : s.lock = none) (l : Option Nat) (x y : Context) :
    (((s.setLock l).withSelf x).setLock none).withSelf y = s.withSelf y :=
  calc
    (((s.setLock l).withSelf x).setLock none).withSelf y = (s.setLock none).withSelf y := (s.setLock none).withSelf_withSelf x y
    _ = s.withSelf y := by rw [State.setLock_of_eq free]

/-- The state after the rows that take the lock and read the pin's byte; row `q` is next. -/
def State.lockedRead (s : State) (pin : Byte) (q : BitVec 4) : State :=
  (s.drew.setLock (some s.cur)).withSelf { s.self with b := s.gpioSampled pin.toNat, phase := q }

section LockedRead

variable {pin : Byte} {q : BitVec 4}

theorem State.lockedRead_self (inRange : s.cur < s.ctxs.length) :
    (s.lockedRead pin q).self = { s.self with b := s.gpioSampled pin.toNat, phase := q } :=
  State.withSelf_self (s := s.drew.setLock (some s.cur)) inRange _

theorem State.lockedRead_atRow (inRange : s.cur < s.ctxs.length) : AtRow (s.lockedRead pin q) q :=
  atRow_withSelf (s := s.drew.setLock (some s.cur)) inRange rfl

@[simp] theorem State.lockedRead_lock : (s.lockedRead pin q).lock = some (s.lockedRead pin q).cur := rfl

@[simp] theorem State.lockedRead_cur : (s.lockedRead pin q).cur = s.cur := rfl

@[simp] theorem State.lockedRead_length : (s.lockedRead pin q).ctxs.length = s.ctxs.length := List.length_set

@[simp] theorem State.lockedRead_params : (s.lockedRead pin q).params = s.params := rfl

@[simp] theorem State.lockedRead_override : (s.lockedRead pin q).override = s.override := rfl

theorem runAlone_lockedRead {p : BitVec 4} (inRange : s.cur < s.ctxs.length) (busy : s.self.busy = true)
    (acquires : exec i s = .next ((s.setLock (some s.cur)).withSelf { s.self with phase := p }))
    (reads : ∀ {u : State}, AtRow u p →
      exec i u = .next (u.drew.withSelf { u.self with b := u.gpioSampled pin.toNat, phase := q })) :
    runAlone (n + 2) i s = runAlone n i (s.lockedRead pin q) := by
  have inRange' : (s.setLock (some s.cur)).cur < (s.setLock (some s.cur)).ctxs.length := inRange
  have read := reads (atRow_withSelf inRange' (x := { s.self with phase := p }) rfl)
  rw [State.withSelf_self inRange'] at read
  rw [runAlone_goesOn acquires inRange' busy, runAlone_goesOn read (by simpa using inRange) busy]
  exact congrArg (runAlone n i) ((s.drew.setLock (some s.cur)).withSelf_withSelf _ _)

end LockedRead

end Run

/-! ### The bits of a byte that was read, changed and stored -/

section Bytes

variable {s : State} (h : s.params.layout.wellFormed = true) (i : Nat)

/-- What a read returns, without the sampled level, is what is stored (R67). -/
theorem State.gpioSampled_and_not_maskIn (s : State) (i : Nat) :
    s.gpioSampled i &&& ~~~maskIn s.params.layout = s.gpioStored i := by
  refine BitVec.eq_of_getLsbD_eq fun j _ => ?_
  rw [maskIn, getLsbD_and_not_bitMask, getLsbD_gpioStored, State.gpioSampled, BitVec.getLsbD_or, getLsbD_gpioStored]
  split
  · rfl
  · next other =>
    have level : (if s.padSample i then maskIn s.params.layout else 0).getLsbD j = false := by
      cases s.padSample i
      · exact BitVec.getLsbD_zero
      · exact (getLsbD_bitMask_eq _ j).trans (by simp [other])
    rw [level, Bool.or_false]

include h

/-- The sampled level is no part of the direction. -/
theorem isOutputEnabled_gpioSampled : isOutputEnabled s.params (s.gpioSampled i) = isOutputEnabled s.params (s.gpioStored i) := by
  have other := (Layout.inBit_ne h).1.symm
  rw [isOutputEnabled, isOutputEnabled, getLsbD_gpioSampled s i (Layout.inBit_lt h), getLsbD_gpioStored, if_neg other, if_neg other]

/-- A byte read, turned to output and stored: `OEB` and `OUT` are new, every other stored bit is as before (R126, R68). -/
theorem getLsbD_setOutput_stored (v : Bool) (j : Nat) :
    (setOutput s.params (s.gpioSampled i) v &&& ~~~maskIn s.params.layout).getLsbD j =
      if j = s.params.layout.outBit then v else if j = s.params.layout.oebBit then false else (s.gpioStored i).getLsbD j := by
  obtain ⟨notOeb, notOut⟩ := Layout.inBit_ne h
  rw [maskIn, getLsbD_and_not_bitMask, getLsbD_setOutput h, getLsbD_gpioSampled s i (Layout.inBit_lt h), getLsbD_gpioStored]
  by_cases isIn : j = s.params.layout.inBit
  · subst isIn
    simp [notOeb, notOut]
  · simp [isIn]

/-- The same for a byte turned to input (R127, R68). -/
theorem getLsbD_setInput_stored (j : Nat) :
    (setInput s.params (s.gpioSampled i) &&& ~~~maskIn s.params.layout).getLsbD j =
      if j = s.params.layout.oebBit then true else (s.gpioStored i).getLsbD j := by
  obtain ⟨notOeb, _⟩ := Layout.inBit_ne h
  rw [maskIn, getLsbD_and_not_bitMask, getLsbD_setInput h, getLsbD_gpioSampled s i (Layout.inBit_lt h), getLsbD_gpioStored]
  by_cases isIn : j = s.params.layout.inBit
  · subst isIn
    simp [notOeb]
  · simp [isIn]

end Bytes

section Direction

variable {p : Params} (h : p.layout.wellFormed = true) {b : Byte}

include h

/-- An input byte is not what an output is (R128). -/
theorem setOutput_ne_of_input (input : isOutputEnabled p b = false) (v : Bool) : setOutput p b v ≠ b := fun same => by
  have output := isOutputEnabled_setOutput h b v
  rw [same, input] at output
  exact Bool.false_ne_true output

theorem setInput_ne_of_output (output : isOutputEnabled p b = true) : setInput p b ≠ b := fun same => by
  have input := isOutputEnabled_setInput h b
  rw [same, output] at input
  exact Bool.false_ne_true input.symm

theorem setInput_of_input (input : isOutputEnabled p b = false) : setInput p b = b := by
  refine BitVec.eq_of_getLsbD_eq fun j _ => ?_
  rw [getLsbD_setInput h]
  split
  · next isOeb =>
    rw [isOeb]
    simpa [isOutputEnabled] using input.symm
  · rfl

end Direction

/-! ### REQ (R163, R170 (b)) -/

/-- Under the default codes a byte belongs to the embedded controller exactly when its low bits are `01` (R36). -/
theorem decodeOwnership_eq_embeddedController_iff {p : Params} (layout : p.layout = Layout.default)
    (codes : p.ownCode = Params.default.ownCode) (b : Byte) : decodeOwnership p b = .embeddedController ↔ b.toNat % 4 = 1 := by
  have number := congrArg BitVec.toNat (ownershipNumber_decodeOwnership codes b)
  rw [layout] at number
  rw [← toNat_lowField, ← show _ = (b.extractLsb' 0 2).toNat from number]
  cases decodeOwnership p b <;> simp [ownershipNumber]

section Req

variable {s : State} {pin : Byte}

theorem AcceptedReady.row (ready : AcceptedReady s) : AtRow s 0 := ⟨ready.accepted.curExists, ready.accepted.phase⟩

theorem runAlone_req_read {n : Nat} (ready : AcceptedReady s) :
    runAlone (n + 2) (.req pin) s = runAlone n (.req pin) (s.lockedRead pin 2) :=
  runAlone_lockedRead ready.accepted.curExists ready.accepted.busy (exec_req_acquire ready.row ready.constructed ready.lockFree)
    exec_req_read

/-- The refusal: nothing but the registers of the context has changed. -/
theorem runAlone_req_conflict (ready : AcceptedReady s)
    (conflict : decodeOwnership s.params (s.gpioSampled pin.toNat) = .embeddedController) :
    runAlone 3 (.req pin) s = .next (s.drew.withSelf
      { s.self with
        b := s.gpioSampled pin.toNat
        phase := 2
        rsp := ⟨4, (s.gpioSampled pin.toNat).setWidth 64⟩
        busy := false }) := by
  have inRange := ready.accepted.curExists
  have row := exec_req_answer (i := pin) (s.lockedRead_atRow (pin := pin) (q := 2) inRange)
  rw [State.lockedRead_params, State.lockedRead_self inRange, if_pos conflict, State.raise_of_held rfl, placed_zero] at row
  rw [State.lockedRead_self inRange, State.lockedRead, State.unlock_withSelf (s := s.drew) ready.lockFree] at row
  exact (runAlone_req_read ready).trans (runAlone_ends row inRange rfl)

/-- The pin is requested with the byte that was read. -/
theorem runAlone_req_recorded (ready : AcceptedReady s)
    (noConflict : decodeOwnership s.params (s.gpioSampled pin.toNat) ≠ .embeddedController) :
    runAlone 3 (.req pin) s = .next ((s.drew.saveOriginal pin.toNat (s.gpioSampled pin.toNat)).withSelf
      { s.self with
        b := s.gpioSampled pin.toNat
        phase := 2
        rsp := ⟨0, (s.gpioSampled pin.toNat).setWidth 64⟩
        busy := false }) := by
  have inRange := ready.accepted.curExists
  have row := exec_req_answer (i := pin) (s.lockedRead_atRow (pin := pin) (q := 2) inRange)
  rw [State.lockedRead_params, State.lockedRead_self inRange, if_neg noConflict, releaseOk_of_held rfl, placed_zero,
    State.saveOriginal_self, State.lockedRead_self inRange] at row
  have unlocked := State.unlock_withSelf (s := s.drew.saveOriginal pin.toNat (s.gpioSampled pin.toNat)) ready.lockFree
    (some s.cur) { s.self with b := s.gpioSampled pin.toNat, phase := 2 }
  exact (runAlone_req_read ready).trans ((runAlone_ends row (by simpa using inRange) rfl).trans (congrArg _ (unlocked _)))

end Req

/-- Settles O32. -/
theorem reqAlone : Obligations.ReqAlone := by
  intro pin s ready layout codes b
  have inRange := ready.accepted.curExists
  have owner := decodeOwnership_eq_embeddedController_iff layout codes b
  by_cases conflict : decodeOwnership s.params b = .embeddedController
  · refine ⟨_, runAlone_req_conflict ready conflict, ?_, ready.lockFree, rfl, rfl, fun _ => ⟨?_, rfl, rfl⟩,
      fun other => absurd (owner.1 conflict) other⟩ <;> rw [State.withSelf_self (s := s.drew) inRange]
  · refine ⟨_, runAlone_req_recorded ready conflict, ?_, ready.lockFree, rfl, rfl, fun h => absurd (owner.2 h) conflict,
      fun _ => ⟨?_, ?_, ?_, fun j other => ⟨?_, ?_⟩⟩⟩
    · rw [State.withSelf_self (s := s.drew.saveOriginal _ _) inRange]
    · rw [State.withSelf_self (s := s.drew.saveOriginal _ _) inRange]
    · rw [State.withSelf_valid, State.valid_saveOriginal _ pin.isLt, if_pos rfl]
    · rw [State.withSelf_saved, State.saved_saveOriginal _ pin.isLt, if_pos rfl]
    · rw [State.withSelf_valid, State.valid_saveOriginal _ pin.isLt, if_neg other, State.drew_valid]
    · rw [State.withSelf_saved, State.saved_saveOriginal _ pin.isLt, if_neg other, State.drew_saved]

end Sys2Proof.Machine
end

section
/-! PROOFS of FREE, SETL, DOUT and DIN run alone, and of the round trip of REQ and FREE (spec/42_line_controller.md R164, R167 to R170).
Each run is one lemma that gives the state it ends in; the statements read that state. -/

namespace Sys2Proof.Machine

/-! ### FREE (R164, R254) -/

section Free

variable {s : State} {pin : Byte}

theorem runAlone_free_acquire {n : Nat} (ready : AcceptedReady s) :
    runAlone (n + 1) (.free pin) s =
      runAlone n (.free pin) ((s.setLock (some s.cur)).withSelf { s.self with phase := 1 }) :=
  runAlone_goesOn (exec_free_acquire ready.row ready.constructed ready.lockFree) ready.accepted.curExists ready.accepted.busy

theorem runAlone_free_notRequested (ready : AcceptedReady s) (notRequested : s.valid pin.toNat = false) :
    runAlone 3 (.free pin) s = .next (s.withSelf { s.self with phase := 1, rsp := ⟨8, 0⟩, busy := false }) := by
  have inRange : (s.setLock (some s.cur)).cur < (s.setLock (some s.cur)).ctxs.length := ready.accepted.curExists
  have row := exec_free_restore (i := pin) (atRow_withSelf inRange (x := { s.self with phase := 1 }) rfl)
  rw [State.withSelf_valid, State.setLock_valid, if_neg (ne_true_of_eq_false notRequested), State.raise_of_held rfl, State.withSelf_self inRange,
    State.unlock_withSelf ready.lockFree] at row
  exact (runAlone_free_acquire ready).trans (runAlone_ends row ready.accepted.curExists rfl)

/-- The pin's stored bits are the saved ones, and the entry is dropped. -/
theorem runAlone_free_restored (ready : AcceptedReady s) (requested : s.valid pin.toNat = true) :
    runAlone 3 (.free pin) s = .next (((s.storeGpio pin.toNat (s.saved pin.toNat)).dropOriginal pin.toNat).withSelf
      { s.self with
        t := s.saved pin.toNat
        phase := 2
        rsp := ⟨0, (s.saved pin.toNat).setWidth 64⟩
        busy := false }) := by
  have inRange : (s.setLock (some s.cur)).cur < (s.setLock (some s.cur)).ctxs.length := ready.accepted.curExists
  have restore := exec_free_restore (i := pin) (atRow_withSelf inRange (x := { s.self with phase := 1 }) rfl)
  rw [State.withSelf_valid, State.setLock_valid, if_pos requested, writePin_eq, State.withSelf_self inRange] at restore
  have restored : exec (.free pin) ((s.setLock (some s.cur)).withSelf { s.self with phase := 1 }) =
      .next (((s.setLock (some s.cur)).storeGpio pin.toNat (s.saved pin.toNat)).withSelf
        { s.self with t := s.saved pin.toNat, phase := 2 }) :=
    restore.trans (congrArg _
      (((s.setLock (some s.cur)).storeGpio pin.toNat (s.saved pin.toNat)).withSelf_withSelf { s.self with phase := 1 } _))
  have inRange' : ((s.setLock (some s.cur)).storeGpio pin.toNat (s.saved pin.toNat)).cur <
      ((s.setLock (some s.cur)).storeGpio pin.toNat (s.saved pin.toNat)).ctxs.length := inRange
  have drop := exec_free_drop (i := pin) (atRow_withSelf inRange' (x := { s.self with t := s.saved pin.toNat, phase := 2 }) rfl)
  rw [releaseOk_of_held rfl, State.dropOriginal_self, State.withSelf_self inRange', placed_zero] at drop
  have unlocked := State.unlock_withSelf (s := (s.storeGpio pin.toNat (s.saved pin.toNat)).dropOriginal pin.toNat)
    ready.lockFree (some s.cur) { s.self with t := s.saved pin.toNat, phase := 2 }
  calc
    runAlone 3 (.free pin) s = runAlone 2 (.free pin) _ := runAlone_free_acquire ready
    _ = runAlone 1 (.free pin) _ := runAlone_goesOn restored inRange' ready.accepted.busy
    _ = .next _ := runAlone_ends drop (by simpa using ready.accepted.curExists) rfl
    _ = .next _ := congrArg _ (unlocked _)

end Free

/-- Settles O33. -/
theorem freeAlone : Obligations.FreeAlone := by
  intro pin s ready
  refine ⟨fun requested => ⟨_, runAlone_free_restored ready requested, ?_, ready.lockFree, ?_, ?_, ?_, fun a other => ?_,
    fun j other => ⟨?_, rfl⟩⟩, runAlone_free_notRequested ready⟩
  · rw [State.withSelf_self (s := (s.storeGpio _ _).dropOriginal _) ready.accepted.curExists]
  · rw [State.withSelf_self (s := (s.storeGpio _ _).dropOriginal _) ready.accepted.curExists]
  · rw [State.withSelf_gpioStored, State.dropOriginal_gpioStored, State.gpioStored_storeGpio, if_pos rfl]
  · rw [State.withSelf_valid, State.valid_dropOriginal, if_pos rfl]
  · exact State.storedAt_of_store (s := s) (t := ((s.storeGpio _ _).dropOriginal _).withSelf _) rfl rfl rfl rfl rfl other
  · rw [State.withSelf_valid, State.valid_dropOriginal, if_neg other, State.storeGpio_valid]

/-! ### The locked write of SETL, DOUT and DIN -/

section Written

variable {i : Instr} {s : State} {pin v : Byte} {q r : BitVec 4}

/-- From the row after the read: the byte is written, and the next row releases the lock and responds OK. -/
theorem runAlone_written {n : Nat} (inRange : s.cur < s.ctxs.length) (busy : s.self.busy = true) (free : s.lock = none)
    (writes : exec i (s.lockedRead pin q) = .next (((s.lockedRead pin q).storeGpio pin.toNat v).withSelf
      { (s.lockedRead pin q).self with t := v, phase := r }))
    (releases : ∀ {u : State}, AtRow u r → u.lock = some u.cur →
      exec i u = .next ((u.setLock none).withSelf { u.self with rsp := ⟨0, 0⟩, busy := false })) :
    runAlone (n + 2) i (s.lockedRead pin q) = .next ((s.drew.storeGpio pin.toNat v).withSelf
      { s.self with b := s.gpioSampled pin.toNat, t := v, phase := r, rsp := ⟨0, 0⟩, busy := false }) := by
  rw [State.lockedRead_self inRange] at writes
  have inRange' : ((s.lockedRead pin q).storeGpio pin.toNat v).cur < ((s.lockedRead pin q).storeGpio pin.toNat v).ctxs.length := by
    simpa using inRange
  have release := releases (atRow_withSelf inRange'
    (x := { s.self with b := s.gpioSampled pin.toNat, t := v, phase := r }) rfl) rfl
  rw [State.withSelf_self inRange'] at release
  calc
    runAlone (n + 2) i (s.lockedRead pin q) = runAlone (n + 1) i _ := runAlone_goesOn writes inRange' busy
    _ = .next _ := runAlone_ends release (by simpa using inRange) rfl
    _ = .next _ := by
      refine congrArg _ ?_
      calc
        _ = (((s.drew.storeGpio pin.toNat v).setLock none).withSelf _).withSelf _ :=
          congrArg (State.withSelf · _) (State.withSelf_withSelf ((s.drew.storeGpio pin.toNat v).setLock none) _ _)
        _ = ((s.drew.storeGpio pin.toNat v).setLock none).withSelf _ := State.withSelf_withSelf _ _ _
        _ = (s.drew.storeGpio pin.toNat v).withSelf _ := by
          rw [State.setLock_of_eq (s := s.drew.storeGpio pin.toNat v) free]

/-- From the row after the read: nothing is written, the lock is released and the command responds. -/
theorem runAlone_answered {n : Nat} {x : Context} (inRange : s.cur < s.ctxs.length) (free : s.lock = none) (idle : x.busy = false)
    (answers : exec i (s.lockedRead pin q) = .next (((s.lockedRead pin q).setLock none).withSelf x)) :
    runAlone (n + 1) i (s.lockedRead pin q) = .next (s.drew.withSelf x) :=
  (runAlone_ends answers (by simpa using inRange) idle).trans
    (congrArg _ (State.unlock_withSelf (s := s.drew) free (some s.cur) _ x))

end Written

/-- A pin whose byte was read and turned to output drives `v`, and its other stored bits are as before. -/
theorem output_stored {s t : State} (h : s.params.layout.wellFormed = true) {i : Nat} {v : Bool}
    (stored : t.gpioStored i = setOutput s.params (s.gpioSampled i) v &&& ~~~maskIn s.params.layout) :
    (t.gpioStored i).getLsbD s.params.layout.oebBit = false ∧ (t.gpioStored i).getLsbD s.params.layout.outBit = v ∧
      ∀ k, k ≠ s.params.layout.oebBit → k ≠ s.params.layout.outBit → (t.gpioStored i).getLsbD k = (s.gpioStored i).getLsbD k := by
  rw [stored]
  refine ⟨?_, ?_, fun k oeb out => ?_⟩ <;> rw [getLsbD_setOutput_stored h]
  · rw [if_neg (Layout.oebBit_ne_outBit h), if_pos rfl]
  · rw [if_pos rfl]
  · rw [if_neg out, if_neg oeb]

/-! ### SETL (R167) -/

section Setl

variable {s : State} {pin : Byte} {v : Bool}

theorem runAlone_setl_read {n : Nat} (ready : AcceptedReady s) :
    runAlone (n + 2) (.setl pin v) s = runAlone n (.setl pin v) (s.lockedRead pin 2) :=
  runAlone_lockedRead ready.accepted.curExists ready.accepted.busy (exec_setl_acquire ready.row ready.constructed ready.lockFree)
    exec_setl_read

theorem runAlone_setl_written (ready : AcceptedReady s)
    (allowed : (isOutputEnabled s.params (s.gpioSampled pin.toNat) || s.override) = true) :
    runAlone 4 (.setl pin v) s =
      .next ((s.drew.storeGpio pin.toNat (setOutput s.params (s.gpioSampled pin.toNat) v)).withSelf
        { s.self with
          b := s.gpioSampled pin.toNat
          t := setOutput s.params (s.gpioSampled pin.toNat) v
          phase := 3
          rsp := ⟨0, 0⟩
          busy := false }) := by
  have inRange := ready.accepted.curExists
  have row := exec_setl_write (i := pin) (v := v) (s.lockedRead_atRow (pin := pin) (q := 2) inRange)
  rw [writePin_eq, State.lockedRead_params, State.lockedRead_override, State.lockedRead_self inRange, if_pos allowed] at row
  have write : exec (.setl pin v) (s.lockedRead pin 2) =
      .next (((s.lockedRead pin 2).storeGpio pin.toNat (setOutput s.params (s.gpioSampled pin.toNat) v)).withSelf
        { (s.lockedRead pin 2).self with t := setOutput s.params (s.gpioSampled pin.toNat) v, phase := 3 }) := by
    rw [row, State.lockedRead_self inRange]
  exact (runAlone_setl_read ready).trans
    (runAlone_written inRange ready.accepted.busy ready.lockFree write exec_setl_release)

theorem runAlone_setl_dropped (ready : AcceptedReady s)
    (refused : (isOutputEnabled s.params (s.gpioSampled pin.toNat) || s.override) = false) :
    runAlone 4 (.setl pin v) s = .next (s.drew.withSelf
      { s.self with b := s.gpioSampled pin.toNat, phase := 2, rsp := ⟨0, 0⟩, busy := false }) := by
  have inRange := ready.accepted.curExists
  have drop := exec_setl_write (i := pin) (v := v) (s.lockedRead_atRow (pin := pin) (q := 2) inRange)
  rw [State.lockedRead_params, State.lockedRead_override, State.lockedRead_self inRange,
    if_neg (ne_true_of_eq_false refused), releaseOk_of_held rfl, State.lockedRead_self inRange] at drop
  exact (runAlone_setl_read ready).trans (runAlone_answered inRange ready.lockFree rfl drop)

end Setl

/-- Settles O34: the byte read decides as the stored one does, because the sampled level is no part of the direction. -/
theorem setlAlone : Obligations.SetlAlone := by
  intro pin v s ready h
  have inRange := ready.accepted.curExists
  have enabled := isOutputEnabled_gpioSampled h pin.toNat
  cases allowed : isOutputEnabled s.params (s.gpioSampled pin.toNat) || s.override with
  | true =>
    refine ⟨_, runAlone_setl_written ready allowed, ?_, ready.lockFree, ?_, rfl, rfl, fun _ => ?_, fun input safe => ?_⟩
    · rw [State.withSelf_self (s := s.drew.storeGpio _ _) inRange]
    · rw [State.withSelf_self (s := s.drew.storeGpio _ _) inRange]
    · obtain ⟨oeb, out, others⟩ := output_stored (t := (s.drew.storeGpio pin.toNat _).withSelf _) h
        ((State.gpioStored_storeGpio s.drew pin.toNat _ _).trans (if_pos rfl))
      exact ⟨oeb, out, others, fun a other =>
        State.storedAt_of_store (s := s) (t := (s.drew.storeGpio _ _).withSelf _) rfl rfl rfl rfl rfl other⟩
    · rw [enabled, input, safe] at allowed
      cases allowed
  | false =>
    refine ⟨_, runAlone_setl_dropped ready allowed, ?_, ready.lockFree, ?_, rfl, rfl, fun h => ?_, fun _ _ => rfl⟩
    · rw [State.withSelf_self (s := s.drew) inRange]
    · rw [State.withSelf_self (s := s.drew) inRange]
    · rw [enabled] at allowed
      rcases h with h | h <;> simp [h] at allowed

/-! ### DOUT (R168) -/

section Dout

variable {s u : State} {pin : Byte} {v : Bool}

theorem runAlone_dout_fast {n : Nat} (ready : AcceptedReady s)
    (output : isOutputEnabled s.params (s.gpioSampled pin.toNat) = true) :
    runAlone (n + 1) (.dout pin v) s =
      .next (s.drew.withSelf { s.self with b := s.gpioSampled pin.toNat, rsp := ⟨0, 0⟩, busy := false }) := by
  have row := exec_dout_firstRead (i := pin) (v := v) ready.row ready.constructed
  rw [if_pos output] at row
  exact runAlone_ends row ready.accepted.curExists rfl

/-- DOUT has read an input pin outside the lock, from `s`, and stands before its locked section: only the registers of its context and
the number of draws have changed. -/
structure BeforeLockedDout (s u : State) : Prop where
  row : AtRow u 1
  busy : u.self.busy = true
  free : u.lock = none
  gpio : u.gpio = s.gpio
  iomux : u.iomux = s.iomux
  gpioBase : u.gpioBase = s.gpioBase
  iomuxBase : u.iomuxBase = s.iomuxBase
  origValid : u.origValid = s.origValid
  origVal : u.origVal = s.origVal
  params : u.params = s.params
  override : u.override = s.override

theorem runAlone_dout_firstRead (ready : AcceptedReady s)
    (input : isOutputEnabled s.params (s.gpioSampled pin.toNat) = false) :
    ∃ u, BeforeLockedDout s u ∧ ∀ n, runAlone (n + 1) (.dout pin v) s = runAlone n (.dout pin v) u := by
  have inRange : s.drew.cur < s.drew.ctxs.length := ready.accepted.curExists
  have row := exec_dout_firstRead (i := pin) (v := v) ready.row ready.constructed
  rw [if_neg (ne_true_of_eq_false input)] at row
  refine ⟨_, ⟨atRow_withSelf inRange rfl, ?_, ready.lockFree, rfl, rfl, rfl, rfl, rfl, rfl, rfl, rfl⟩, fun n =>
    runAlone_goesOn row inRange ready.accepted.busy⟩
  rw [State.withSelf_self inRange]
  exact ready.accepted.busy

namespace BeforeLockedDout

theorem gpioStored (before : BeforeLockedDout s u) (i : Nat) : u.gpioStored i = s.gpioStored i :=
  State.gpioStored_congr before.gpio before.params i

theorem gpioAddr (before : BeforeLockedDout s u) (i : Nat) : Machine.gpioAddr u i = Machine.gpioAddr s i := by
  rw [Machine.gpioAddr, Machine.gpioAddr, before.gpioBase]

theorem storedAt (before : BeforeLockedDout s u) (a : Nat) : u.storedAt a = s.storedAt a :=
  State.storedAt_congr before.gpioBase before.iomuxBase before.iomux fun j _ => before.gpioStored j

theorem runAlone_read {n : Nat} (before : BeforeLockedDout s u) :
    runAlone (n + 2) (.dout pin v) u = runAlone n (.dout pin v) (u.lockedRead pin 3) :=
  runAlone_lockedRead before.row.curExists before.busy (exec_dout_acquire before.row before.free) exec_dout_read

theorem runAlone_refused (before : BeforeLockedDout s u) (h : u.params.layout.wellFormed = true)
    (input : isOutputEnabled u.params (u.gpioSampled pin.toNat) = false) (safe : u.override = false) :
    runAlone 4 (.dout pin v) u = .next (u.drew.withSelf
      { u.self with
        b := u.gpioSampled pin.toNat
        t := setOutput u.params (u.gpioSampled pin.toNat) v
        phase := 3
        rsp := ⟨5, (setOutput u.params (u.gpioSampled pin.toNat) v ++ u.gpioSampled pin.toNat).setWidth 64⟩
        busy := false }) := by
  have inRange := before.row.curExists
  have row := u.lockedRead_atRow (pin := pin) (q := 3) inRange
  have gate := exec_dout_gate (i := pin) (v := v) row
  rw [changeDirection_of_refused row.curExists rfl (by
      rw [State.lockedRead_self inRange]
      exact setOutput_ne_of_input h input v) safe, State.lockedRead_self inRange] at gate
  exact before.runAlone_read.trans (runAlone_answered inRange before.free rfl gate)

theorem runAlone_written (before : BeforeLockedDout s u) (h : u.params.layout.wellFormed = true)
    (input : isOutputEnabled u.params (u.gpioSampled pin.toNat) = false) (overridden : u.override = true) :
    runAlone 4 (.dout pin v) u =
      .next ((u.drew.storeGpio pin.toNat (setOutput u.params (u.gpioSampled pin.toNat) v)).withSelf
        { u.self with
          b := u.gpioSampled pin.toNat
          t := setOutput u.params (u.gpioSampled pin.toNat) v
          phase := 4
          rsp := ⟨0, 0⟩
          busy := false }) := by
  have inRange := before.row.curExists
  have gate := exec_dout_gate (i := pin) (v := v) (u.lockedRead_atRow (pin := pin) (q := 3) inRange)
  rw [changeDirection_of_overridden (s := u.lockedRead pin 3) (by
      rw [State.lockedRead_self inRange]
      exact setOutput_ne_of_input h input v) overridden] at gate
  have write : exec (.dout pin v) (u.lockedRead pin 3) =
      .next (((u.lockedRead pin 3).storeGpio pin.toNat (setOutput u.params (u.gpioSampled pin.toNat) v)).withSelf
        { (u.lockedRead pin 3).self with t := setOutput u.params (u.gpioSampled pin.toNat) v, phase := 4 }) := by
    rw [gate, State.lockedRead_self inRange]
    rfl
  exact before.runAlone_read.trans (Machine.runAlone_written inRange before.busy before.free write exec_dout_release)

end BeforeLockedDout

end Dout

/-- Settles O35: the fast path, the refusal and the write exclude each other. -/
theorem doutAlone : Obligations.DoutAlone := by
  intro pin v s ready h
  cases output : isOutputEnabled s.params (s.gpioStored pin.toNat) with
  | true =>
    refine ⟨_, runAlone_dout_fast ready ((isOutputEnabled_gpioSampled h _).trans output), ?_, ready.lockFree, rfl, rfl,
      fun _ => ⟨?_, rfl⟩, nofun, nofun⟩ <;> rw [State.withSelf_self (s := s.drew) ready.accepted.curExists]
  | false =>
    obtain ⟨u, before, run⟩ := runAlone_dout_firstRead (v := v) ready ((isOutputEnabled_gpioSampled h _).trans output)
    have inRange := before.row.curExists
    rw [← before.params] at h output ⊢
    rw [← before.gpioStored] at output ⊢
    rw [← before.origValid, ← before.origVal, ← before.override, ← before.gpio, run]
    have input := (isOutputEnabled_gpioSampled h pin.toNat).trans output
    cases override : u.override with
    | false =>
      refine ⟨_, before.runAlone_refused h input override, ?_, before.free, rfl, rfl, nofun, fun _ _ => ⟨?_, rfl, ?_, ?_⟩,
        nofun⟩ <;> rw [State.withSelf_self (s := u.drew) inRange]
      exact u.gpioSampled_and_not_maskIn pin.toNat
    | true =>
      refine ⟨_, before.runAlone_written h input override, ?_, before.free, rfl, rfl, nofun, nofun, fun _ _ => ⟨?_, ?_⟩⟩
      · rw [State.withSelf_self (s := u.drew.storeGpio _ _) inRange]
      · rw [State.withSelf_self (s := u.drew.storeGpio _ _) inRange]
      · obtain ⟨oeb, out, others⟩ := output_stored (t := (u.drew.storeGpio pin.toNat _).withSelf _) h
          ((State.gpioStored_storeGpio u.drew pin.toNat _ _).trans (if_pos rfl))
        exact ⟨oeb, out, others, fun a other => (State.storedAt_of_store (s := u)
          (t := (u.drew.storeGpio _ _).withSelf _) rfl rfl rfl rfl rfl (before.gpioAddr _ ▸ other)).trans (before.storedAt a)⟩

/-! ### DIN (R169) -/

section Din

variable {s : State} {pin : Byte}

theorem runAlone_din_read {n : Nat} (ready : AcceptedReady s) :
    runAlone (n + 2) (.din pin) s = runAlone n (.din pin) (s.lockedRead pin 2) :=
  runAlone_lockedRead ready.accepted.curExists ready.accepted.busy (exec_din_acquire ready.row ready.constructed ready.lockFree)
    exec_din_read

theorem runAlone_din_unchanged (ready : AcceptedReady s) (h : s.params.layout.wellFormed = true)
    (input : isOutputEnabled s.params (s.gpioSampled pin.toNat) = false) :
    runAlone 4 (.din pin) s = .next (s.drew.withSelf
      { s.self with
        b := s.gpioSampled pin.toNat
        t := setInput s.params (s.gpioSampled pin.toNat)
        phase := 2
        rsp := ⟨0, 0⟩
        busy := false }) := by
  have inRange := ready.accepted.curExists
  have row := s.lockedRead_atRow (pin := pin) (q := 2) inRange
  have gate := exec_din_gate (i := pin) row
  rw [changeDirection_of_unchanged row.curExists rfl (by
      rw [State.lockedRead_self inRange]
      exact setInput_of_input h input), State.lockedRead_self inRange] at gate
  exact (runAlone_din_read ready).trans (runAlone_answered inRange ready.lockFree rfl gate)

theorem runAlone_din_refused (ready : AcceptedReady s) (h : s.params.layout.wellFormed = true)
    (output : isOutputEnabled s.params (s.gpioSampled pin.toNat) = true) (safe : s.override = false) :
    runAlone 4 (.din pin) s = .next (s.drew.withSelf
      { s.self with
        b := s.gpioSampled pin.toNat
        t := setInput s.params (s.gpioSampled pin.toNat)
        phase := 2
        rsp := ⟨5, (setInput s.params (s.gpioSampled pin.toNat) ++ s.gpioSampled pin.toNat).setWidth 64⟩
        busy := false }) := by
  have inRange := ready.accepted.curExists
  have row := s.lockedRead_atRow (pin := pin) (q := 2) inRange
  have gate := exec_din_gate (i := pin) row
  rw [changeDirection_of_refused row.curExists rfl (by
      rw [State.lockedRead_self inRange]
      exact setInput_ne_of_output h output) safe, State.lockedRead_self inRange] at gate
  exact (runAlone_din_read ready).trans (runAlone_answered inRange ready.lockFree rfl gate)

theorem runAlone_din_written (ready : AcceptedReady s) (h : s.params.layout.wellFormed = true)
    (output : isOutputEnabled s.params (s.gpioSampled pin.toNat) = true) (overridden : s.override = true) :
    runAlone 4 (.din pin) s =
      .next ((s.drew.storeGpio pin.toNat (setInput s.params (s.gpioSampled pin.toNat))).withSelf
        { s.self with
          b := s.gpioSampled pin.toNat
          t := setInput s.params (s.gpioSampled pin.toNat)
          phase := 3
          rsp := ⟨0, 0⟩
          busy := false }) := by
  have inRange := ready.accepted.curExists
  have gate := exec_din_gate (i := pin) (s.lockedRead_atRow (pin := pin) (q := 2) inRange)
  rw [changeDirection_of_overridden (s := s.lockedRead pin 2) (by
      rw [State.lockedRead_self inRange]
      exact setInput_ne_of_output h output) overridden] at gate
  have write : exec (.din pin) (s.lockedRead pin 2) =
      .next (((s.lockedRead pin 2).storeGpio pin.toNat (setInput s.params (s.gpioSampled pin.toNat))).withSelf
        { (s.lockedRead pin 2).self with t := setInput s.params (s.gpioSampled pin.toNat), phase := 3 }) := by
    rw [gate, State.lockedRead_self inRange]
    rfl
  exact (runAlone_din_read ready).trans
    (runAlone_written inRange ready.accepted.busy ready.lockFree write exec_din_release)

end Din

/-- Settles O36. -/
theorem dinAlone : Obligations.DinAlone := by
  intro pin s ready h
  have inRange := ready.accepted.curExists
  have enabled := isOutputEnabled_gpioSampled h pin.toNat
  cases output : isOutputEnabled s.params (s.gpioStored pin.toNat) with
  | false =>
    refine ⟨_, runAlone_din_unchanged ready h (enabled.trans output), ?_, ready.lockFree, rfl, rfl, fun _ => ⟨?_, rfl⟩, nofun,
      nofun⟩ <;> rw [State.withSelf_self (s := s.drew) inRange]
  | true =>
    cases override : s.override with
    | false =>
      refine ⟨_, runAlone_din_refused ready h (enabled.trans output) override, ?_, ready.lockFree, rfl, rfl, nofun,
        fun _ _ => ⟨?_, rfl, ?_, ?_⟩, nofun⟩ <;> rw [State.withSelf_self (s := s.drew) inRange]
      exact s.gpioSampled_and_not_maskIn pin.toNat
    | true =>
      refine ⟨_, runAlone_din_written ready h (enabled.trans output) override, ?_, ready.lockFree, rfl, rfl, nofun, nofun,
        fun _ _ => ⟨?_, ?_, fun k other => ?_, fun a other => ?_⟩⟩
      · rw [State.withSelf_self (s := s.drew.storeGpio _ _) inRange]
      · rw [State.withSelf_self (s := s.drew.storeGpio _ _) inRange]
      · rw [State.withSelf_gpioStored, State.gpioStored_storeGpio, if_pos rfl]
        exact (getLsbD_setInput_stored h _ _).trans (if_pos rfl)
      · rw [State.withSelf_gpioStored, State.gpioStored_storeGpio, if_pos rfl]
        exact (getLsbD_setInput_stored h _ _).trans (if_neg other)
      · exact State.storedAt_of_store (s := s) (t := (s.drew.storeGpio _ _).withSelf _) rfl rfl rfl rfl rfl other

end Sys2Proof.Machine
end

section
/-! PROOFS of the round trip of REQ and FREE (spec/42_line_controller.md R170 (a)): a byte read and stored again is the byte that was
stored, since the input bit is no storage. -/

namespace Sys2Proof.Machine

theorem Memory.read_eq_unlisted_or_mem (m : Memory) (a : Nat) : m.read a = Memory.unlisted ∨ (a, m.read a) ∈ m := by
  induction m with
  | nil => exact .inl rfl
  | cons c m ih =>
    obtain ⟨k, v⟩ := c
    rw [Memory.read_cons]
    split
    next same => exact .inr (same ▸ List.mem_cons_self)
    next => exact ih.imp id (List.mem_cons_of_mem _)

section

variable {s t w : State} {pin : Byte}

/-- Under the invariant the file holds the stored bits and nothing else. -/
theorem Inv.gpioStored_eq_read (inv : Inv s) (i : Nat) : s.gpioStored i = s.gpio.read i := by
  have inputClear : s.gpio.read i &&& maskIn s.params.layout = 0 := by
    rcases s.gpio.read_eq_unlisted_or_mem i with nothing | stored
    · rw [nothing]
      exact BitVec.zero_and
    · exact inv.inputNotStored _ stored
  refine BitVec.eq_of_getLsbD_eq fun j inByte => ?_
  have notBoth : ((s.gpio.read i).getLsbD j && (maskIn s.params.layout).getLsbD j) = false := by
    rw [← BitVec.getLsbD_and, inputClear]
    exact BitVec.getLsbD_zero
  rw [State.gpioStored, BitVec.getLsbD_and, BitVec.getLsbD_not]
  simp only [inByte, decide_true, Bool.true_and]
  cases stored : (s.gpio.read i).getLsbD j <;> simp_all

/-- A read byte stored again changes nothing. -/
theorem Inv.write_gpioSampled (inv : Inv s) (i : Nat) :
    s.gpio.write i (s.gpioSampled i &&& ~~~maskIn s.params.layout) = s.gpio := by
  rw [s.gpioSampled_and_not_maskIn, inv.gpioStored_eq_read, Memory.write_read inv.gpioCanonical]

theorem AcceptedReady.issue (inRange : s.cur < s.ctxs.length) (constructed : s.constructed = true) (free : s.lock = none) (c : Word) :
    AcceptedReady (s.issue s.cur c) := by
  have self : (s.issue s.cur c).self = { s.self with cmd := c, busy := true, phase := 0 } := State.withSelf_self inRange _
  refine ⟨⟨?_, by rw [self], by rw [self]⟩, constructed, free⟩
  simpa using inRange

/-- A REQ that answers OK has saved the byte it read (R163). -/
theorem runAlone_req_ok (ready : AcceptedReady s) (run : runAlone 3 (.req pin) s = .next t) (ok : t.self.rsp.status = 0) :
    t = (s.drew.saveOriginal pin.toNat (s.gpioSampled pin.toNat)).withSelf
      { s.self with
        b := s.gpioSampled pin.toNat
        phase := 2
        rsp := ⟨0, (s.gpioSampled pin.toNat).setWidth 64⟩
        busy := false } := by
  by_cases conflict : decodeOwnership s.params (s.gpioSampled pin.toNat) = .embeddedController
  · cases run.symm.trans (runAlone_req_conflict ready conflict)
    rw [State.withSelf_self (s := s.drew) ready.accepted.curExists] at ok
    cases ok
  · exact Host.Outcome.next.inj (run.symm.trans (runAlone_req_recorded ready conflict))

end

/-- Settles O37: REQ saves what it read, and FREE stores it again without the level of the pad. -/
theorem freeUndoesReq : Obligations.FreeUndoesReq := by
  intro pin s t inv ready run ok
  have inRange := ready.accepted.curExists
  obtain rfl := runAlone_req_ok ready run ok
  generalize asked : (s.drew.saveOriginal pin.toNat (s.gpioSampled pin.toNat)).withSelf _ = t
  have saved : t.saved pin.toNat = s.gpioSampled pin.toNat := by
    rw [← asked, State.withSelf_saved, State.saved_saveOriginal _ pin.isLt, if_pos rfl]
  have valid : t.valid pin.toNat = true := by
    rw [← asked, State.withSelf_valid, State.valid_saveOriginal _ pin.isLt, if_pos rfl]
  have gpio : t.gpio = s.gpio := by rw [← asked]; rfl
  have params : t.params = s.params := by rw [← asked]; rfl
  have iomux : t.iomux = s.iomux := by rw [← asked]; rfl
  have inRangeAgain : t.cur < t.ctxs.length := by simpa [← asked] using inRange
  have constructed : t.constructed = true := by rw [← asked]; exact ready.constructed
  have free : t.lock = none := by rw [← asked]; exact ready.lockFree
  have readyAgain := AcceptedReady.issue inRangeAgain constructed free (encode (.free pin))
  constructor
  · refine ⟨_, runAlone_free_restored readyAgain valid, ?_, ?_, ?_, iomux, ?_, readyAgain.lockFree⟩
    · rw [State.withSelf_self (by exact readyAgain.accepted.curExists)]
    · rw [State.withSelf_self (by exact readyAgain.accepted.curExists)]
    · calc
        _ = t.gpio.write pin.toNat (t.saved pin.toNat &&& ~~~maskIn t.params.layout) := rfl
        _ = s.gpio := by rw [gpio, saved, params, inv.write_gpioSampled]
    · rw [State.withSelf_valid, State.valid_dropOriginal, if_pos rfl]
  · intro w readyW paramsW validW savedW
    refine ⟨_, runAlone_free_restored readyW validW, ?_, ?_⟩
    · rw [State.withSelf_self (by exact readyW.accepted.curExists)]
    · rw [State.withSelf_gpioStored, State.dropOriginal_gpioStored, State.gpioStored_storeGpio, if_pos rfl, savedW, saved, paramsW,
        s.gpioSampled_and_not_maskIn]

end Sys2Proof.Machine
end

section
/-! PROOFS of safe mode (spec/42_line_controller.md R162, spec/60_exceptions.md R218): without the override DOUT and DIN store nothing,
and SETL stores only to a pin that it has read as an output, which stays one. -/

namespace Sys2Proof.Machine

section

variable {n : Nat} {i : Instr} {pin : Byte} {v : Bool} {s t u : State} {x : Context}

/-- The rows of DOUT and DIN that store a byte are those of the override. -/
theorem Row.gpio_of_safe (r : Row s i u x) (direction : i = .dout pin v ∨ i = .din pin) (safe : s.override = false) :
    u.gpio = s.gpio := by
  cases r with
  | doutWritten _ overridden | dinWritten _ overridden => exact absurd (safe.symm.trans overridden) Bool.false_ne_true
  | freeRestored | setlWritten | teardownRestored => rcases direction with other | other <;> cases other
  | diagAnswered _ read | dumpGpioRead _ read | dumpEmitted _ read => rcases read with rfl | rfl <;> rfl
  | _ => rfl

theorem exec_gpio_of_safe (direction : i = .dout pin v ∨ i = .din pin) (safe : s.override = false) (h : exec i s = .next t) :
    t.gpio = s.gpio := by
  obtain ⟨u, x, r, rfl⟩ := exec_row h
  exact r.gpio_of_safe direction safe

theorem exec_override (h : exec i s = .next t) : t.override = s.override := by
  obtain ⟨u, x, r, rfl⟩ := exec_row h
  exact r.surroundings.override

theorem runAlone_gpio_of_safe (direction : i = .dout pin v ∨ i = .din pin) (safe : s.override = false)
    (run : runAlone n i s = .next t) : t.gpio = s.gpio := by
  induction n generalizing s with
  | zero =>
    cases run
    rfl
  | succ n ih =>
    obtain ⟨u, row, ⟨_, rest⟩ | ⟨_, rfl⟩⟩ := runAlone_succ_next run
    · exact (ih ((exec_override row).trans safe) rest).trans (exec_gpio_of_safe direction safe row)
    · exact exec_gpio_of_safe direction safe row

/-! ### SETL -/

/-- What a row of SETL does to the GPIO file: nothing, or, at its third row, it turns a byte that allows it into an output. -/
theorem Row.setl_gpio (r : Row s (.setl pin v) u x) :
    u.gpio = s.gpio ∨ s.self.phase.toNat = 2 ∧ (isOutputEnabled s.params s.self.b || s.override) = true ∧
      u.gpio = (s.storeGpio pin.toNat (setOutput s.params s.self.b v)).gpio := by
  cases r with
  | setlWritten row allowed => exact .inr ⟨row, allowed, rfl⟩
  | _ => exact .inl rfl

/-- The stored direction bit of a byte is that of the byte (R68). -/
theorem isOutputEnabled_and_not_maskIn {p : Params} (h : p.layout.wellFormed = true) (b : Byte) :
    isOutputEnabled p (b &&& ~~~maskIn p.layout) = isOutputEnabled p b := by
  rw [isOutputEnabled, isOutputEnabled, maskIn, getLsbD_and_not_bitMask, if_neg (Layout.inBit_ne h).1.symm]

theorem isOutputEnabled_setl {u : State} (h : s.params.layout.wellFormed = true) (params : u.params = s.params)
    (stored : u.gpio = (s.storeGpio pin.toNat (setOutput s.params s.self.b v)).gpio) :
    isOutputEnabled s.params (u.gpioStored pin.toNat) = true := by
  have storedByte : u.gpioStored pin.toNat = (s.storeGpio pin.toNat (setOutput s.params s.self.b v)).gpioStored pin.toNat :=
    State.gpioStored_congr stored params _
  rw [storedByte, State.gpioStored_storeGpio, if_pos rfl, isOutputEnabled_and_not_maskIn h, isOutputEnabled_setOutput h]

/-- SETL in safe mode, with no other agent between its rows: the byte it has read still tells the pin's direction when it is used. -/
structure SetlSafe (pin : Byte) (s : State) : Prop where
  curExists : s.cur < s.ctxs.length
  safe : s.override = false
  layout : s.params.layout.wellFormed = true
  direction : s.self.phase.toNat = 2 → isOutputEnabled s.params s.self.b = isOutputEnabled s.params (s.gpioStored pin.toNat)

theorem SetlSafe.keepsDirections (h : SetlSafe pin s) (r : Row s (.setl pin v) u x) (j : Nat) :
    isOutputEnabled s.params (u.gpioStored j) = isOutputEnabled s.params (s.gpioStored j) := by
  have params := r.surroundings.params
  rcases r.setl_gpio with same | ⟨row, allowed, stored⟩
  · rw [State.gpioStored_congr same params]
  · by_cases isPin : j = pin.toNat
    · subst isPin
      rw [h.safe, Bool.or_false, h.direction row] at allowed
      rw [isOutputEnabled_setl h.layout params stored, allowed]
    · rw [State.gpioStored_congr stored params, State.gpioStored_storeGpio, if_neg isPin]

theorem SetlSafe.row (h : SetlSafe pin s) (r : Row s (.setl pin v) u x) (goesOn : x.busy = true) : SetlSafe pin (u.withSelf x) := by
  have around := r.surroundings
  have inRange : u.cur < u.ctxs.length := by
    rw [around.cur, around.ctxs]
    exact h.curExists
  refine ⟨by simpa using inRange, around.override.trans h.safe, ?_, ?_⟩
  · rw [State.withSelf_params, around.params]
    exact h.layout
  rw [State.withSelf_self inRange, State.withSelf_params, State.withSelf_gpioStored]
  cases r with
  | held => exact h.direction
  | acquired row _ _ _ next =>
    intro third
    rw [Context.atRow, next] at third
    have first : 0 = s.self.phase.toNat := Option.some.inj row
    omega
  | pinRead row =>
    obtain ⟨_, rfl⟩ := Prod.mk.inj (Option.some.inj row)
    exact fun _ => isOutputEnabled_gpioSampled h.layout _
  | setlWritten => exact nofun
  | _ => exact absurd goesOn Bool.false_ne_true

theorem SetlSafe.runAlone_keepsDirections (h : SetlSafe pin s) (run : runAlone n (.setl pin v) s = .next t) (j : Nat) :
    isOutputEnabled s.params (t.gpioStored j) = isOutputEnabled s.params (s.gpioStored j) := by
  induction n generalizing s with
  | zero =>
    cases run
    rfl
  | succ n ih =>
    obtain ⟨u, row, after⟩ := runAlone_succ_next run
    obtain ⟨u, x, r, rfl⟩ := exec_row row
    have kept := h.keepsDirections r j
    have around := r.surroundings
    have inRange : u.cur < u.ctxs.length := by
      rw [around.cur, around.ctxs]
      exact h.curExists
    rcases after with ⟨busy, rest⟩ | ⟨_, rfl⟩
    · rw [State.withSelf_self inRange] at busy
      have later := ih (h.row r busy) rest
      rw [State.withSelf_params, around.params] at later
      exact later.trans kept
    · exact kept

end

/-- Settles O50. -/
theorem safeModeKeepsDirections : Obligations.SafeModeKeepsDirections := by
  refine ⟨fun pin v s t safe => ⟨exec_gpio_of_safe (.inl rfl) safe, exec_gpio_of_safe (v := v) (.inr rfl) safe, fun h => ?_⟩,
    fun n pin v s t accepted safe layout => ⟨fun run => ?_, runAlone_gpio_of_safe (.inl rfl) safe,
      runAlone_gpio_of_safe (v := v) (.inr rfl) safe⟩⟩
  · obtain ⟨u, x, r, rfl⟩ := exec_row h
    rcases r.setl_gpio with same | ⟨_, allowed, stored⟩
    · exact .inl same
    · rw [safe, Bool.or_false] at allowed
      exact .inr ⟨allowed, stored, fun layout => isOutputEnabled_setl layout r.surroundings.params stored⟩
  · refine SetlSafe.runAlone_keepsDirections ⟨accepted.curExists, safe, layout, fun third => ?_⟩ run
    rw [accepted.phase] at third
    cases third

end Sys2Proof.Machine
end

section
/-! PROOFS of program P4 (spec/95_test_vectors.md section 3, spec/70_reset_and_hazards.md R245): DOUT's first read, outside the lock, falls
between the read and the write of another context's DIN. -/

namespace Sys2Proof.Machine

/-- `t` is `s` after some rows of its contexts: the turns to come, the lock and the GPIO file are as given, and what no row of a line
command changes is as in `s`. -/
structure Reached (s t : State) (agenda : List Event) (lock : Option Nat) (gpio : Memory) : Prop where
  length : t.ctxs.length = s.ctxs.length
  params : t.params = s.params
  override : t.override = s.override
  constructed : t.constructed = s.constructed
  agenda : t.agenda = agenda
  lock : t.lock = lock
  gpio : t.gpio = gpio

/-- The state in which the turn of context `c` runs its row. -/
def State.turnOf (t : State) (c : Nat) (rest : List Event) : State := (t.setAgenda rest).setCur c

section

variable {s t u : State} {c : Nat} {rest : List Event} {l l' : Option Nat} {g g' : Memory} {i : Instr} {x : Context}

/-- A turn on the agenda is the row of the named context: that context's registers become the row's, every other's are as before. -/
theorem Reached.turn (reached : Reached s t (.run c :: rest) l g) (inRange : c < s.ctxs.length) (busy : (t.ctx c).busy = true)
    (cmd : (t.ctx c).cmd = encode i) (row : exec i (t.turnOf c rest) = .next (u.withSelf x)) (around : SameSurroundings (t.turnOf c rest) u)
    (constructed : u.constructed = t.constructed) (lock : u.lock = l') (gpio : u.gpio = g') :
    ∃ t', step t = .next t' ∧ Reached s t' rest l' g' ∧ ∀ d, t'.ctx d = if d = c then x else t.ctx d := by
  have inRange' : c < t.ctxs.length := reached.length ▸ inRange
  have ctxs : (u.withSelf x).ctxs = t.ctxs.set c x := by
    rw [State.withSelf_ctxs, around.ctxs, around.cur]
    rfl
  have turn : step t = .next (u.withSelf x) := by
    rw [step_of_agenda reached.agenda]
    exact (runContext_of_busy (s := t.setAgenda rest) (i := i) inRange' busy (by rw [State.setAgenda_ctx, cmd, decode_encode])).trans row
  refine ⟨_, turn, ⟨?_, around.params.trans reached.params, around.override.trans reached.override,
    constructed.trans reached.constructed, around.agenda, lock, gpio⟩, State.ctx_of_set ctxs inRange'⟩
  rw [ctxs, List.length_set, reached.length]

theorem Reached.atRow (reached : Reached s t (.run c :: rest) l g) (inRange : c < s.ctxs.length) {p : BitVec 4}
    (phase : (t.ctx c).phase = p) : AtRow (t.turnOf c rest) p :=
  ⟨reached.length ▸ inRange, phase⟩

/-- A byte read while the file is as it was tells the pin's direction. -/
theorem Reached.isOutputEnabled_gpioSampled (reached : Reached s t (.run c :: rest) l s.gpio)
    (layout : s.params.layout.wellFormed = true) (j : Nat) :
    isOutputEnabled s.params ((t.turnOf c rest).gpioSampled j) = isOutputEnabled s.params (s.gpioStored j) := by
  have sampled := Machine.isOutputEnabled_gpioSampled (s := t.turnOf c rest) (reached.params ▸ layout) j
  have stored : (t.turnOf c rest).gpioStored j = s.gpioStored j := State.gpioStored_congr reached.gpio reached.params j
  have params : (t.turnOf c rest).params = s.params := reached.params
  rwa [params, stored] at sampled

variable {pin : Byte} {v : Bool}

/-- DIN takes the lock and reads a byte that tells the pin's direction. -/
theorem Reached.din_reads (r : Reached s t (.run 1 :: .run 1 :: rest) none s.gpio) (two : 2 ≤ s.ctxs.length)
    (built : s.constructed = true) (layout : s.params.layout.wellFormed = true) (busy : (t.ctx 1).busy = true)
    (cmd : (t.ctx 1).cmd = encode (.din pin)) (phase : (t.ctx 1).phase = 0) :
    ∃ t1 t2 b, step t = .next t1 ∧ step t1 = .next t2 ∧ Reached s t2 rest (some 1) s.gpio ∧ t2.ctx 0 = t.ctx 0 ∧
      t2.ctx 1 = { t.ctx 1 with b := b, phase := 2 } ∧
      isOutputEnabled s.params b = isOutputEnabled s.params (s.gpioStored pin.toNat) := by
  obtain ⟨t1, acquires, r1, ctx1⟩ := r.turn (l' := some 1) two busy cmd
    (exec_din_acquire (r.atRow two phase) (r.constructed.trans built) r.lock) ⟨rfl, rfl, rfl, rfl, rfl, rfl, rfl, rfl, rfl⟩ rfl rfl r.gpio
  have din1 : t1.ctx 1 = { t.ctx 1 with phase := 1 } := ctx1 1
  obtain ⟨t2, reads, r2, ctx2⟩ := r1.turn two (by rw [din1, busy]) (by rw [din1, cmd]) (exec_din_read (r1.atRow two (by rw [din1])))
    ⟨rfl, rfl, rfl, rfl, rfl, rfl, rfl, rfl, rfl⟩ rfl r1.lock r1.gpio
  have din2 : t2.ctx 1 = { t1.ctx 1 with b := (t1.turnOf 1 rest).gpioSampled pin.toNat, phase := 2 } := ctx2 1
  rw [din1] at din2
  exact ⟨t1, t2, _, acquires, reads, r2, (ctx2 0).trans (ctx1 0), din2, r1.isOutputEnabled_gpioSampled layout pin.toNat⟩

/-- DOUT's fast path, while the lock is another's. -/
theorem Reached.dout_answers (r : Reached s t (.run 0 :: rest) l s.gpio) (one : 0 < s.ctxs.length) (built : s.constructed = true)
    (layout : s.params.layout.wellFormed = true) (output : isOutputEnabled s.params (s.gpioStored pin.toNat) = true)
    (busy : (t.ctx 0).busy = true) (cmd : (t.ctx 0).cmd = encode (.dout pin v)) (phase : (t.ctx 0).phase = 0) :
    ∃ t1, step t = .next t1 ∧ Reached s t1 rest l s.gpio ∧ (t1.ctx 0).busy = false ∧ (t1.ctx 0).rsp = ⟨0, 0⟩ ∧ t1.ctx 1 = t.ctx 1 := by
  have params : (t.turnOf 0 rest).params = s.params := r.params
  have firstRead := exec_dout_firstRead (i := pin) (v := v) (r.atRow one phase) (r.constructed.trans built)
  rw [params, if_pos ((r.isOutputEnabled_gpioSampled layout pin.toNat).trans output)] at firstRead
  obtain ⟨t1, answers, r1, ctx1⟩ := r.turn one busy cmd firstRead ⟨rfl, rfl, rfl, rfl, rfl, rfl, rfl, rfl, rfl⟩ rfl r.lock r.gpio
  refine ⟨t1, answers, r1, ?_, ?_, ctx1 1⟩ <;> rw [ctx1, if_pos rfl]

/-- DIN writes what it makes of the byte it read, and releases the lock. -/
theorem Reached.din_writes (r : Reached s t [.run 1, .run 1] (some 1) s.gpio) (two : 2 ≤ s.ctxs.length) (overridden : s.override = true)
    (layout : s.params.layout.wellFormed = true) (output : isOutputEnabled s.params (t.ctx 1).b = true)
    (busy : (t.ctx 1).busy = true) (cmd : (t.ctx 1).cmd = encode (.din pin)) (phase : (t.ctx 1).phase = 2) :
    ∃ t1 t2, step t = .next t1 ∧ step t1 = .next t2 ∧ t2.lock = none ∧ t2.ctx 0 = t.ctx 0 ∧ (t2.ctx 1).busy = false ∧
      (t2.ctx 1).rsp = ⟨0, 0⟩ ∧ isOutputEnabled s.params (t2.gpioStored pin.toNat) = false := by
  have params : (t.turnOf 1 [.run 1]).params = s.params := r.params
  have gate := exec_din_gate (i := pin) (r.atRow two phase)
  rw [params, changeDirection_of_overridden (s := t.turnOf 1 [.run 1]) (setInput_ne_of_output layout output)
    (r.override.trans overridden)] at gate
  obtain ⟨t1, writes, r1, ctx1⟩ := r.turn (g' := ((t.turnOf 1 [.run 1]).storeGpio pin.toNat (setInput s.params (t.ctx 1).b)).gpio)
    two busy cmd gate ⟨rfl, rfl, rfl, rfl, rfl, rfl, rfl, rfl, rfl⟩ rfl r.lock rfl
  have din1 : t1.ctx 1 = { t.ctx 1 with t := setInput s.params (t.ctx 1).b, phase := 3 } := ctx1 1
  obtain ⟨t2, releases, r2, ctx2⟩ := r1.turn (l' := none) two (by rw [din1, busy]) (by rw [din1, cmd])
    (exec_din_release (r1.atRow two (by rw [din1])) r1.lock) ⟨rfl, rfl, rfl, rfl, rfl, rfl, rfl, rfl, rfl⟩ rfl rfl r1.gpio
  refine ⟨t1, t2, writes, releases, r2.lock, (ctx2 0).trans (ctx1 0), ?_, ?_, ?_⟩
  · rw [ctx2, if_pos rfl]
  · rw [ctx2, if_pos rfl]
  · rw [State.gpioStored_congr r2.gpio (r2.params.trans r.params.symm), State.gpioStored_storeGpio, if_pos rfl, params,
      isOutputEnabled_and_not_maskIn layout, isOutputEnabled_setInput layout]

end

theorem run_five {s t1 t2 t3 t4 t5 : State} (first : step s = .next t1) (second : step t1 = .next t2) (third : step t2 = .next t3)
    (fourth : step t3 = .next t4) (fifth : step t4 = .next t5) : Host.Core.run Sys2Proof.core 5 s = .next t5 := by
  have core (s : State) : Sys2Proof.core.step s = step s := rfl
  simp only [Host.Core.run, core, first, second, third, fourth, fifth]

/-- Settles O51: DIN takes the lock and reads, DOUT reads an output and answers, DIN writes and releases. -/
theorem fastPathInsideLockedDin : Obligations.FastPathInsideLockedDin := by
  intro pin v s two built overridden free layout output busy0 cmd0 phase0 busy1 cmd1 phase1 agenda
  have start : Reached s s [.run 1, .run 1, .run 0, .run 1, .run 1] none s.gpio := ⟨rfl, rfl, rfl, rfl, agenda, free, rfl⟩
  obtain ⟨t1, t2, b, acquires, reads, r2, dout2, din2, direction⟩ := start.din_reads two built layout busy1 cmd1 phase1
  obtain ⟨t3, answers, r3, idle, ok, din3⟩ := r2.dout_answers (by omega) built layout output (by rw [dout2, busy0])
    (by rw [dout2, cmd0]) (by rw [dout2, phase0])
  rw [din2] at din3
  obtain ⟨t4, t5, writes, releases, unlocked, dout5, idle', ok', input⟩ := r3.din_writes two overridden layout
    (by rw [din3, direction, output]) (by rw [din3, busy1]) (by rw [din3, cmd1]) (by rw [din3])
  exact ⟨t5, run_five acquires reads answers writes releases, by rw [dout5, idle], by rw [dout5, ok], idle', ok', input, unlocked⟩

end Sys2Proof.Machine
end

section
/-! PROOFS of TEARDOWN run alone (spec/41_locator_lifecycle.md R150): what holds each time its loop comes to its head, and the rows after
the loop. -/

namespace Sys2Proof.Machine

theorem length_filter_range_succ (p : Nat → Bool) (k : Nat) :
    ((List.range (k + 1)).filter p).length = ((List.range k).filter p).length + if p k = true then 1 else 0 := by
  rw [List.range_succ, List.filter_append, List.length_append]
  cases kth : p k <;> simp [kth]

theorem length_filter_range_le (p : Nat → Bool) (k : Nat) : ((List.range k).filter p).length ≤ k :=
  (List.length_filter_le ..).trans List.length_range.le

theorem lt_succ_iff_of_ne {j k : Nat} (other : j ≠ k) : j < k + 1 ↔ j < k := by omega

/-- `t` stands at the head of TEARDOWN's loop, begun in `s`: the requested pins below `k` are restored and dropped. -/
structure RestoredBelow (s : State) (k : Nat) (t : State) : Prop where
  row : AtRow t 1
  busy : t.self.busy = true
  pin : t.self.k.toNat = k
  count : t.self.n.toNat = ((List.range k).filter s.valid).length
  held : t.lock = some t.cur
  constructed : t.constructed = false
  stored : ∀ j, t.gpioStored j =
    if j < k ∧ s.valid j = true then s.saved j &&& ~~~maskIn s.params.layout else s.gpioStored j
  valid : ∀ j, t.valid j = if j < k then false else s.valid j
  saved : ∀ j, t.saved j = s.saved j
  params : t.params = s.params
  iomux : t.iomux = s.iomux

section

variable {s t : State} {k : Nat}

theorem exec_teardown_begun (ready : AcceptedReady s) : ∃ t, exec .teardown s = .next t ∧ RestoredBelow s 0 t := by
  have inRange : s.cur < s.ctxs.length := ready.accepted.curExists
  have self := State.withSelf_self (s := (s.setLock (some s.cur)).setConstructed false) inRange { s.self with k := 0, n := 0, phase := 1 }
  refine ⟨_, exec_teardown_begin ready.row ready.constructed ready.lockFree, ?_⟩
  constructor
  case row => exact atRow_withSelf (s := (s.setLock (some s.cur)).setConstructed false) inRange rfl
  case busy =>
    rw [self]
    exact ready.accepted.busy
  case pin | count =>
    rw [self]
    rfl
  all_goals simp

/-- The row of a requested pin. -/
theorem RestoredBelow.restore (loop : RestoredBelow s k t) (more : k < 256) (requested : s.valid k = true) :
    ∃ t', exec .teardown t = .next t' ∧ RestoredBelow s (k + 1) t' := by
  have row := exec_teardown_loop loop.row
  rw [loop.pin, if_neg more.ne, loop.valid, if_neg (lt_irrefl k), if_pos requested, memWrite_gpioAddr t more, loop.saved] at row
  have inRange : ((t.storeGpio k (s.saved k)).dropOriginal k).cur < ((t.storeGpio k (s.saved k)).dropOriginal k).ctxs.length :=
    loop.row.curExists
  have self := State.upd_self inRange fun c => { c with n := c.n + 1, k := c.k + 1 }
  refine ⟨_, row, ?_⟩
  constructor
  case row => exact ⟨by simpa using loop.row.curExists, by rw [self]; exact loop.row.phase⟩
  case busy =>
    rw [self]
    exact loop.busy
  case pin =>
    rw [self, ← loop.pin]
    exact toNat_succ (loop.pin.trans_le more.le)
  case count =>
    have small := length_filter_range_le s.valid k
    rw [self, length_filter_range_succ, if_pos requested, ← loop.count]
    exact toNat_succ (by rw [State.dropOriginal_self, State.storeGpio_self, loop.count]; omega)
  case stored =>
    intro j
    rw [State.upd_gpioStored, State.dropOriginal_gpioStored, State.gpioStored_storeGpio, loop.stored, loop.params]
    by_cases isPin : j = k
    · simp [isPin, requested]
    · simp [isPin, lt_succ_iff_of_ne isPin]
  case valid =>
    intro j
    rw [State.upd_valid, State.valid_dropOriginal, State.storeGpio_valid, loop.valid]
    by_cases isPin : j = k
    · simp [isPin]
    · simp [isPin, lt_succ_iff_of_ne isPin]
  case held => exact loop.held
  case constructed => exact loop.constructed
  case saved => exact loop.saved
  case params => exact loop.params
  case iomux => exact loop.iomux

/-- The row of a pin that is not requested. -/
theorem RestoredBelow.skip (loop : RestoredBelow s k t) (more : k < 256) (notRequested : s.valid k = false) :
    ∃ t', exec .teardown t = .next t' ∧ RestoredBelow s (k + 1) t' := by
  have row := exec_teardown_loop loop.row
  rw [loop.pin, if_neg more.ne, loop.valid, if_neg (lt_irrefl k), if_neg (ne_true_of_eq_false notRequested)] at row
  have self := State.withSelf_self loop.row.curExists { t.self with k := t.self.k + 1 }
  refine ⟨_, row, ?_⟩
  constructor
  case row => exact atRow_withSelf loop.row.curExists loop.row.phase
  case busy =>
    rw [self]
    exact loop.busy
  case pin =>
    rw [self, ← loop.pin]
    exact toNat_succ (loop.pin.trans_le more.le)
  case count =>
    rw [self, length_filter_range_succ, if_neg (ne_true_of_eq_false notRequested), ← loop.count]
    rfl
  case stored =>
    intro j
    rw [State.withSelf_gpioStored, loop.stored]
    by_cases isPin : j = k
    · simp [isPin, notRequested]
    · simp [lt_succ_iff_of_ne isPin]
  case valid =>
    intro j
    rw [State.withSelf_valid, loop.valid]
    by_cases isPin : j = k
    · simp [isPin, notRequested]
    · simp [lt_succ_iff_of_ne isPin]
  case held => exact loop.held
  case constructed => exact loop.constructed
  case saved => exact loop.saved
  case params => exact loop.params
  case iomux => exact loop.iomux

theorem RestoredBelow.restoresAll (loop : RestoredBelow s k t) {d : Nat} (left : k + d = 256) (n : Nat) :
    ∃ t', runAlone (d + n) .teardown t = runAlone n .teardown t' ∧ RestoredBelow s 256 t' := by
  induction d generalizing k t with
  | zero =>
    obtain rfl : k = 256 := left
    exact ⟨t, by rw [Nat.zero_add], loop⟩
  | succ d ih =>
    have row : ∃ t', exec .teardown t = .next t' ∧ RestoredBelow s (k + 1) t' := by
      cases requested : s.valid k with
      | true => exact loop.restore (by omega) requested
      | false => exact loop.skip (by omega) requested
    obtain ⟨t', row, next⟩ := row
    obtain ⟨t'', run, last⟩ := ih next (by omega)
    exact ⟨t'', by rw [Nat.succ_add, runAlone_of_goesOn row next.busy, run], last⟩

/-- The four rows after the loop give up the lock and both regions and answer the number of restored pins. -/
theorem RestoredBelow.answers (loop : RestoredBelow s 256 t) :
    runAlone 4 .teardown t = .next ((((t.setLock none).setIomuxRsv false).setGpioRsv false).withSelf
      { t.self with phase := 4, rsp := ⟨0, placed 0 t.self.n⟩, busy := false }) := by
  have inRange := loop.row.curExists
  have leave := exec_teardown_loop loop.row
  rw [loop.pin, if_pos rfl] at leave
  have release := exec_teardown_release (atRow_withSelf inRange (x := { t.self with phase := 2 }) rfl) loop.held
  rw [State.withSelf_self inRange] at release
  have releaseIomux := exec_teardown_releaseIomux (atRow_withSelf (s := t.setLock none) inRange (x := { t.self with phase := 3 }) rfl)
  rw [State.withSelf_self (s := t.setLock none) inRange] at releaseIomux
  have releaseGpio := exec_teardown_releaseGpio
    (atRow_withSelf (s := (t.setLock none).setIomuxRsv false) inRange (x := { t.self with phase := 4 }) rfl)
  rw [State.respond_eq_withSelf, State.setGpioRsv_self, State.withSelf_self (s := (t.setLock none).setIomuxRsv false) inRange]
    at releaseGpio
  calc
    runAlone 4 .teardown t = runAlone 3 .teardown (t.withSelf { t.self with phase := 2 }) := runAlone_goesOn leave inRange loop.busy
    _ = runAlone 2 .teardown ((t.setLock none).withSelf { t.self with phase := 3 }) :=
      runAlone_goesOn (release.trans (congrArg _ ((t.setLock none).withSelf_withSelf _ _))) inRange loop.busy
    _ = runAlone 1 .teardown (((t.setLock none).setIomuxRsv false).withSelf { t.self with phase := 4 }) :=
      runAlone_goesOn (releaseIomux.trans (congrArg _ (((t.setLock none).setIomuxRsv false).withSelf_withSelf _ _))) inRange loop.busy
    _ = .next _ := runAlone_ends
      (releaseGpio.trans (congrArg _ ((((t.setLock none).setIomuxRsv false).setGpioRsv false).withSelf_withSelf _ _))) inRange rfl

end

/-- Settles O40: the loop has restored every requested pin when it is left. -/
theorem teardownAloneRestores : Obligations.TeardownAloneRestores := by
  intro s ready
  obtain ⟨t, begins, first⟩ := exec_teardown_begun ready
  obtain ⟨t', restores, last⟩ := first.restoresAll (d := 256) rfl 4
  have run : runAlone 261 .teardown s = runAlone 4 .teardown t' := (runAlone_of_goesOn begins first.busy).trans restores
  have self := State.withSelf_self (s := ((t'.setLock none).setIomuxRsv false).setGpioRsv false) last.row.curExists
    { t'.self with phase := 4, rsp := ⟨0, placed 0 t'.self.n⟩, busy := false }
  refine ⟨_, run.trans last.answers, by rw [self], by rw [self], ?_, fun j inBank => ?_, fun j => ?_, last.constructed, rfl, rfl, rfl,
    last.iomux⟩
  · rw [self, placed_zero, BitVec.toNat_setWidth_of_le (by decide), last.count]
  · rw [State.withSelf_gpioStored]
    simpa [inBank] using last.stored j
  · rw [State.withSelf_valid]
    by_cases inTable : j < 256
    · simpa [inTable] using last.valid j
    · exact State.valid_of_ge _ (Nat.le_of_not_lt inTable)

end Sys2Proof.Machine
end

section
/-! PROOFS of DUMP run alone (spec/43_diagnostics.md R195, R192): what holds each time its loop comes to its head. A skipped pin takes one
row, a reported one three. -/

namespace Sys2Proof.Machine

/-- The pins below `k` that DUMP reports, in order. -/
def State.reportedBelow (s : State) (k : Nat) : List Nat := (List.range k).filter fun i => !s.skip i

/-- The record of pin `i` when `n` reads of a pad went before its own. -/
def State.recordAfter (s : State) (n i : Nat) : Data :=
  record s.params i (s.valid i) (({ s with draws := s.draws + n } : State).gpioSampled i) (s.iomux.read i)

section Reported

variable {s : State} {k : Nat}

theorem State.reportedBelow_of_skip (skipped : s.skip k = true) : s.reportedBelow (k + 1) = s.reportedBelow k := by
  simp [State.reportedBelow, List.range_succ, List.filter_append, skipped]

theorem State.reportedBelow_of_report (reported : s.skip k = false) : s.reportedBelow (k + 1) = s.reportedBelow k ++ [k] := by
  simp [State.reportedBelow, List.range_succ, List.filter_append, reported]

theorem State.length_reportedBelow_le (s : State) (k : Nat) : (s.reportedBelow k).length ≤ k := length_filter_range_le _ k

/-- With no pin requested the pins in the gaps are skipped, 72 of 256 (R192). -/
theorem State.length_reportedBelow_of_tableEmpty (empty : s.tableEmpty) : (s.reportedBelow 256).length = 184 := by
  have inGaps : s.reportedBelow 256 = (List.range 256).filter fun i => !inGap i :=
    List.filter_congr fun i _ => by rw [State.skip, empty i, Bool.not_false, Bool.and_true]
  have all := (List.range 256).length_eq_length_filter_add inGap
  rw [gapsAndEvents.1, List.length_range] at all
  rw [inGaps]
  omega

end Reported

/-- `t` stands at the head of DUMP's loop, begun in `s`: the pins below `k` are reported or skipped, and only the registers of the context
and the number of draws have changed. -/
structure DumpedBelow (s : State) (k : Nat) (t : State) : Prop where
  row : AtRow t 1
  busy : t.self.busy = true
  pin : t.self.k.toNat = k
  count : t.self.n.toNat = (s.reportedBelow k).length
  out : t.self.out = (s.reportedBelow k).mapIdx s.recordAfter
  draws : t.draws = s.draws + (s.reportedBelow k).length
  gpio : t.gpio = s.gpio
  iomux : t.iomux = s.iomux
  origValid : t.origValid = s.origValid
  params : t.params = s.params
  inputs : t.inputs = s.inputs
  gpioBase : t.gpioBase = s.gpioBase
  iomuxBase : t.iomuxBase = s.iomuxBase
  lock : t.lock = s.lock

section

variable {s t : State} {k : Nat}

theorem DumpedBelow.skip_eq (loop : DumpedBelow s k t) (i : Nat) : t.skip i = s.skip i := by
  rw [State.skip, State.skip, State.valid_congr loop.origValid]

/-- A read in the loop is the read that the statement speaks of: of the same file, with as many draws before it. -/
theorem DumpedBelow.gpioSampled (loop : DumpedBelow s k t) (i : Nat) :
    t.gpioSampled i = ({ s with draws := s.draws + (s.reportedBelow k).length } : State).gpioSampled i := by
  simp only [State.gpioSampled, State.gpioStored, State.padSample, loop.gpio, loop.params, loop.inputs, loop.draws]

theorem exec_dump_begun (accepted : Accepted s) (built : s.constructed = true) : ∃ t, exec .dump s = .next t ∧ DumpedBelow s 0 t := by
  have self := State.withSelf_self accepted.curExists { s.self with k := 0, n := 0, out := [], phase := 1 }
  refine ⟨_, exec_dump_begin ⟨accepted.curExists, accepted.phase⟩ built,
    ⟨atRow_withSelf accepted.curExists rfl, ?_, ?_, ?_, ?_, rfl, rfl, rfl, rfl, rfl, rfl, rfl, rfl, rfl⟩⟩ <;> rw [self]
  · exact accepted.busy
  · rfl
  · rfl
  · rfl

/-- The row of a skipped pin. -/
theorem DumpedBelow.skip (loop : DumpedBelow s k t) (more : k < 256) (skipped : s.skip k = true) :
    ∃ t', exec .dump t = .next t' ∧ DumpedBelow s (k + 1) t' := by
  have inRange := loop.row.curExists
  have row := exec_dump_loop loop.row
  rw [loop.pin, if_neg more.ne, loop.skip_eq, if_pos skipped] at row
  have self := State.withSelf_self inRange { t.self with k := t.self.k + 1 }
  have same := State.reportedBelow_of_skip skipped
  refine ⟨_, row, ⟨atRow_withSelf inRange loop.row.phase, ?_, ?_, ?_, ?_, ?_, loop.gpio, loop.iomux, loop.origValid, loop.params,
    loop.inputs, loop.gpioBase, loop.iomuxBase, loop.lock⟩⟩
  · rw [self]
    exact loop.busy
  · rw [self, ← loop.pin]
    exact toNat_succ (loop.pin.trans_le more.le)
  · rw [self, same]
    exact loop.count
  · rw [self, same]
    exact loop.out
  · rw [same]
    exact loop.draws

/-- The three rows of a reported pin. -/
theorem DumpedBelow.report (loop : DumpedBelow s k t) (apart : s.banksApart) (more : k < 256) (reported : s.skip k = false) :
    ∃ t', (∀ n, runAlone (n + 3) .dump t = runAlone n .dump t') ∧ DumpedBelow s (k + 1) t' := by
  have inRange := loop.row.curExists
  have label := exec_dump_loop loop.row
  rw [loop.pin, if_neg more.ne, loop.skip_eq, if_neg (ne_true_of_eq_false reported)] at label
  have readGpio := exec_dump_readGpio (atRow_withSelf inRange (x := { t.self with req := t.valid k, phase := 2 }) rfl)
    (by rw [State.withSelf_self inRange]; exact loop.pin.trans_lt more)
  rw [State.withSelf_self inRange, loop.pin, State.withSelf_gpioSampled] at readGpio
  have inRange' : t.drew.cur < t.drew.ctxs.length := inRange
  have readIomux := exec_dump_readIomux
    (atRow_withSelf inRange' (x := { t.self with req := t.valid k, b := t.gpioSampled k, phase := 3 }) rfl)
    (by rw [State.withSelf_self inRange']; exact loop.pin.trans_lt more)
    (show t.banksApart by rwa [State.banksApart, loop.gpioBase, loop.iomuxBase])
  rw [State.withSelf_self inRange', loop.pin] at readIomux
  refine ⟨_, fun n => (runAlone_goesOn label inRange loop.busy).trans
    ((runAlone_goesOn (readGpio.trans (congrArg _ (t.drew.withSelf_withSelf _ _))) inRange loop.busy).trans
      (runAlone_goesOn (readIomux.trans (congrArg _ (t.drew.withSelf_withSelf _ _))) inRange loop.busy)), ?_⟩
  have one := State.reportedBelow_of_report reported
  refine ⟨atRow_withSelf inRange' rfl, ?_, ?_, ?_, ?_, ?_, loop.gpio, loop.iomux, loop.origValid, loop.params, loop.inputs,
    loop.gpioBase, loop.iomuxBase, loop.lock⟩
  · rw [State.withSelf_self inRange']
    exact loop.busy
  · rw [State.withSelf_self inRange', ← loop.pin]
    exact toNat_succ (loop.pin.trans_le more.le)
  · have few := s.length_reportedBelow_le k
    rw [State.withSelf_self inRange', one, List.length_append, ← loop.count]
    exact toNat_succ (by rw [loop.count]; omega)
  · rw [State.withSelf_self inRange', one, List.mapIdx_concat, ← loop.out, State.recordAfter, ← loop.gpioSampled,
      ← State.valid_congr loop.origValid, ← loop.iomux, ← loop.params]
    rfl
  · rw [one, List.length_append, ← Nat.add_assoc, ← loop.draws]
    rfl

/-- The loop is left within three rows a pin and one more. -/
theorem DumpedBelow.answers (loop : DumpedBelow s k t) (apart : s.banksApart) {d n : Nat} (left : k + d = 256)
    (enough : 3 * d + 1 ≤ n) :
    ∃ t', runAlone n .dump t = .next (t'.withSelf { t'.self with rsp := ⟨0, placed 0 t'.self.n⟩, busy := false }) ∧
      DumpedBelow s 256 t' := by
  induction d generalizing k t n with
  | zero =>
    obtain rfl : k = 256 := left
    have row := exec_dump_loop loop.row
    rw [loop.pin, if_pos rfl] at row
    obtain ⟨n, rfl⟩ : ∃ m, n = m + 1 := ⟨n - 1, by omega⟩
    exact ⟨t, runAlone_ends row loop.row.curExists rfl, loop⟩
  | succ d ih =>
    cases skip : s.skip k with
    | true =>
      obtain ⟨t', row, next⟩ := loop.skip (by omega) skip
      obtain ⟨n, rfl⟩ : ∃ m, n = m + 1 := ⟨n - 1, by omega⟩
      rw [runAlone_of_goesOn row next.busy]
      exact ih next (by omega) (by omega)
    | false =>
      obtain ⟨t', rows, next⟩ := loop.report apart (by omega) skip
      obtain ⟨n, rfl⟩ : ∃ m, n = m + 3 := ⟨n - 3, by omega⟩
      rw [rows]
      exact ih next (by omega) (by omega)

end

/-- Settles O41. -/
theorem dumpAloneReports : Obligations.DumpAloneReports := by
  intro s accepted built apart pins
  obtain ⟨t, begins, first⟩ := exec_dump_begun accepted built
  obtain ⟨t', run, last⟩ := first.answers apart (d := 256) (n := 769) rfl (by decide)
  have self := State.withSelf_self last.row.curExists { t'.self with rsp := ⟨0, placed 0 t'.self.n⟩, busy := false }
  have count : (placed 0 t'.self.n).toNat = (s.reportedBelow 256).length := by
    rw [placed_zero, BitVec.toNat_setWidth_of_le (by decide), last.count]
  refine ⟨_, (runAlone_of_goesOn begins first.busy).trans run, by rw [self], by rw [self], ?_, ?_, fun empty => ?_, last.gpio,
    last.iomux, last.origValid, last.lock⟩ <;> rw [self]
  · exact count
  · exact last.out
  · exact BitVec.eq_of_toNat_eq (count.trans (State.length_reportedBelow_of_tableEmpty empty))

end Sys2Proof.Machine
end

section
/-! PROOFS of INIT run alone (spec/41_locator_lifecycle.md R141 to R149): the locator reads its four bytes, and what it makes of them, with
the arbiter's answers, decides how the run ends. -/

namespace Sys2Proof.Machine

/-! ### The locator (R143, R144) -/

theorem toNat_locatorIndex {p : Params} (h : p.wellFormed = true) {k : BitVec 9} (inLoop : k.toNat < 4) :
    (locatorIndex p k).toNat = p.pmBaseReg + k.toNat := by
  have inFile : p.pmBaseReg ≤ 252 := by
    simp only [Params.wellFormed, Bool.and_eq_true, decide_eq_true_eq] at h
    exact h.1.2
  rw [locatorIndex, BitVec.toNat_ofNat]
  exact Nat.mod_eq_of_lt (by omega)

/-- Each byte is placed above those already assembled. -/
theorem assembleByte_setWidth {w : Nat} {k : BitVec 9} (width : w = 8 * k.toNat) (x : BitVec w) (d : Byte) :
    assembleByte (x.setWidth 32) k d = (d ++ x).setWidth 32 := by
  ext i hi
  by_cases low : i < w
  · simp [assembleByte, BitVec.getLsbD_append, ← width, low]
  · have above : x.getLsbD i = false := BitVec.getLsbD_of_ge _ _ (not_lt.mp low)
    simp [assembleByte, BitVec.getLsbD_append, ← width, low, above]

theorem assembleByte_zero (d : Byte) : assembleByte 0 0 d = d.setWidth 32 := by simp [assembleByte]

theorem assembleByte_four (d0 d1 d2 d3 : Byte) :
    assembleByte (assembleByte (assembleByte (assembleByte 0 0 d0) 1 d1) 2 d2) 3 d3 = (d3 ++ d2 ++ d1 ++ d0).setWidth 32 := by
  rw [assembleByte_zero, assembleByte_setWidth (k := 1) rfl, assembleByte_setWidth (k := 2) rfl, assembleByte_setWidth (k := 3) rfl,
    BitVec.append_assoc, BitVec.append_assoc, BitVec.setWidth_cast, BitVec.setWidth_cast]

/-- The value of the four bytes of the base register (R144). -/
def State.baseRegister (s : State) : BitVec 32 :=
  (s.pmreg.read (s.params.pmBaseReg + 3) ++ s.pmreg.read (s.params.pmBaseReg + 2) ++ s.pmreg.read (s.params.pmBaseReg + 1) ++
    s.pmreg.read (s.params.pmBaseReg + 0)).setWidth 32

/-- The state of INIT at a row of its loop, or just after it: `raw` is assembled, `index` is in the latch. -/
def State.locating (s : State) (raw : BitVec 32) (index : Byte) (k : BitVec 9) (p : BitVec 4) : State :=
  ((s.setPmidx index).setLocRaw raw).withSelf { s.self with k := k, phase := p }

section

variable {s : State} {raw : BitVec 32} {index : Byte} {k : BitVec 9} {n : Nat}

/-- The two rows of one byte. -/
theorem runAlone_locating (accepted : Accepted s) (h : s.params.wellFormed = true) (inLoop : k.toNat < 4) :
    runAlone (n + 2) .init (s.locating raw index k 1) =
      runAlone n .init (s.locating (assembleByte raw k (s.pmreg.read (s.params.pmBaseReg + k.toNat))) (locatorIndex s.params k) (k + 1)
        (if (k + 1).toNat < 4 then 1 else 3)) := by
  have self {i : Byte} {q : BitVec 4} : (s.locating raw i k q).self = { s.self with k := k, phase := q } :=
    State.withSelf_self (s := (s.setPmidx i).setLocRaw raw) accepted.curExists _
  have atRow {i : Byte} {q : BitVec 4} : AtRow (s.locating raw i k q) q :=
    atRow_withSelf (s := (s.setPmidx i).setLocRaw raw) accepted.curExists rfl
  have write := exec_init_indexWrite (atRow (i := index) (q := 1))
  rw [self] at write
  have written : exec .init (s.locating raw index k 1) = .next (s.locating raw (locatorIndex s.params k) k 2) :=
    write.trans (congrArg _ (((s.setPmidx (locatorIndex s.params k)).setLocRaw raw).withSelf_upd _ _))
  have read := exec_init_dataRead (atRow (i := locatorIndex s.params k) (q := 2))
  rw [self] at read
  rw [← toNat_locatorIndex h inLoop, runAlone_goesOn written accepted.curExists accepted.busy]
  exact (runAlone_goesOn read (by simpa [State.locating] using accepted.curExists) accepted.busy).trans
    (congrArg _ (State.withSelf_withSelf (State.setLocRaw _ _) _ _))

/-- On a supported chip nine rows read the base register. -/
theorem runAlone_located (accepted : Accepted s) (absent : s.constructed = false) (h : s.params.wellFormed = true)
    (supported : chipSupported s.inputs = true) :
    runAlone (n + 9) .init s = runAlone n .init (s.locating s.baseRegister (locatorIndex s.params 3) 4 3) := by
  have row := exec_init_chipCheck ⟨accepted.curExists, accepted.phase⟩ absent
  rw [if_pos supported] at row
  rw [runAlone_goesOn row accepted.curExists accepted.busy]
  calc
    runAlone (n + 8) .init (s.locating 0 s.pmidx 0 1) = runAlone (n + 6) .init (s.locating _ _ 1 1) :=
      runAlone_locating accepted h (by decide)
    _ = runAlone (n + 4) .init (s.locating _ _ 2 1) := runAlone_locating accepted h (by decide)
    _ = runAlone (n + 2) .init (s.locating _ _ 3 1) := runAlone_locating accepted h (by decide)
    _ = runAlone n .init (s.locating _ (locatorIndex s.params 3) 4 3) := runAlone_locating accepted h (by decide)
    _ = _ := congrArg (fun raw => runAlone n .init (s.locating raw _ 4 3)) (assembleByte_four _ _ _ _)

end

/-! ### What the base register and the arbiter decide (R145 to R148) -/

/-- `BASE + offset` for an enabled base register (R146). -/
def State.baseAt (t : State) (offset : Nat) : Base := BitVec.ofNat 33 (t.locRaw.toNat - 1 + offset)

/-- The bases are derived (R146). -/
def State.based (t : State) : State := t.setBases (t.baseAt t.params.gpioOffset) (t.baseAt t.params.iomuxOffset)

theorem State.toNat_baseAt {t : State} {offset : Nat} (small : offset < 2 ^ 32) :
    (t.baseAt offset).toNat = t.locRaw.toNat - 1 + offset := by
  have raw := t.locRaw.isLt
  rw [State.baseAt, BitVec.toNat_ofNat]
  exact Nat.mod_eq_of_lt (by omega)

section Decide

variable {t u : State} {x : Context} {n : Nat}

theorem runAlone_init_undiscovered (row : AtRow t 3) (free : t.lock ≠ some t.cur) (unpopulated : t.locRaw = 0 ∨ t.locRaw = 0xFFFFFFFF) :
    runAlone (n + 1) .init t = .next (t.withSelf { t.self with rsp := ⟨1, t.locRaw.setWidth 64⟩, busy := false }) := by
  obtain ⟨_, _, _, _, undiscovered, _⟩ := initRows t
  exact runAlone_ends (undiscovered row unpopulated free) row.curExists rfl

theorem runAlone_init_notMemoryMapped (row : AtRow t 3) (free : t.lock ≠ some t.cur) (notZero : t.locRaw ≠ 0)
    (notOnes : t.locRaw ≠ 0xFFFFFFFF) (lowBits : t.locRaw.toNat % 4 ≠ 1) :
    runAlone (n + 1) .init t = .next (t.withSelf { t.self with rsp := ⟨2, t.locRaw.setWidth 64⟩, busy := false }) := by
  obtain ⟨_, _, _, _, _, notMemoryMapped, _⟩ := initRows t
  exact runAlone_ends (notMemoryMapped row notZero notOnes lowBits free) row.curExists rfl

theorem runAlone_init_based (row : AtRow t 3) (busy : t.self.busy = true) (notOnes : t.locRaw ≠ 0xFFFFFFFF)
    (lowBits : t.locRaw.toNat % 4 = 1) :
    runAlone (n + 1) .init t = runAlone n .init (t.based.withSelf { t.self with phase := 4 }) := by
  obtain ⟨_, _, _, _, _, _, basesDerived, _⟩ := initRows t
  have notZero : t.locRaw ≠ 0 := fun zero => by
    rw [zero] at lowBits
    cases lowBits
  exact runAlone_goesOn (basesDerived row notZero notOnes lowBits) row.curExists busy

theorem runAlone_init_gpioDenied (inRange : u.cur < u.ctxs.length) (free : u.lock ≠ some u.cur)
    (denied : u.arbiterGrants u.gpioBase.toNat u.params.bankSize = false) :
    runAlone (n + 1) .init (u.withSelf { x with phase := 4 }) =
      .next (u.drew.withSelf { x with phase := 4, rsp := ⟨3, u.gpioBase.setWidth 64⟩, busy := false }) := by
  obtain ⟨_, _, _, _, _, _, _, _, gpioDenied, _⟩ := initRows (u.withSelf { x with phase := 4 })
  have row := gpioDenied (atRow_withSelf inRange rfl) denied free
  rw [State.withSelf_self inRange] at row
  exact runAlone_ends (row.trans (congrArg _ (u.drew.withSelf_withSelf _ _))) inRange rfl

theorem runAlone_init_gpioGranted (inRange : u.cur < u.ctxs.length) (busy : x.busy = true)
    (granted : u.arbiterGrants u.gpioBase.toNat u.params.bankSize = true) :
    runAlone (n + 1) .init (u.withSelf { x with phase := 4 }) =
      runAlone n .init ((u.drew.setGpioRsv true).withSelf { x with phase := 5 }) := by
  obtain ⟨_, _, _, _, _, _, _, gpioGranted, _⟩ := initRows (u.withSelf { x with phase := 4 })
  have row := gpioGranted (atRow_withSelf inRange rfl) granted
  rw [State.withSelf_self inRange] at row
  exact runAlone_goesOn (row.trans (congrArg _ ((u.drew.setGpioRsv true).withSelf_withSelf _ _))) inRange busy

/-- The rollback of R147. -/
theorem runAlone_init_iomuxDenied (inRange : u.cur < u.ctxs.length) (busy : x.busy = true) (free : u.lock ≠ some u.cur)
    (denied : u.arbiterGrants u.iomuxBase.toNat u.params.bankSize = false) :
    runAlone (n + 2) .init (u.withSelf { x with phase := 5 }) =
      .next ((u.drew.setGpioRsv false).withSelf
        { x with phase := 6, rsp := ⟨3, (1#1 ++ 0#30 ++ u.iomuxBase).setWidth 64⟩, busy := false }) := by
  obtain ⟨_, _, _, _, _, _, _, _, _, _, iomuxDenied, _⟩ := initRows (u.withSelf { x with phase := 5 })
  have deny := iomuxDenied (atRow_withSelf inRange rfl) denied
  rw [State.withSelf_self inRange] at deny
  obtain ⟨_, _, _, _, _, _, _, _, _, _, _, rolledBack, _⟩ := initRows (u.drew.withSelf { x with phase := 6 })
  have rollback := rolledBack (atRow_withSelf (s := u.drew) inRange rfl) free
  rw [State.withSelf_self (s := u.drew) inRange] at rollback
  exact (runAlone_goesOn (deny.trans (congrArg _ (u.drew.withSelf_withSelf _ _))) inRange busy).trans
    (runAlone_ends (rollback.trans (congrArg _ ((u.drew.setGpioRsv false).withSelf_withSelf _ _))) inRange rfl)

theorem runAlone_init_constructed (inRange : u.cur < u.ctxs.length) (busy : x.busy = true)
    (granted : u.arbiterGrants u.iomuxBase.toNat u.params.bankSize = true) :
    runAlone (n + 2) .init (u.withSelf { x with phase := 5 }) =
      .next (((u.drew.setIomuxRsv true).setConstructed true).withSelf
        { x with phase := 7, rsp := ⟨0, (u.iomuxBase.setWidth 32 ++ u.gpioBase.setWidth 32).setWidth 64⟩, busy := false }) := by
  obtain ⟨_, _, _, _, _, _, _, _, _, iomuxGranted, _⟩ := initRows (u.withSelf { x with phase := 5 })
  have grant := iomuxGranted (atRow_withSelf inRange rfl) granted
  rw [State.withSelf_self inRange] at grant
  obtain ⟨_, _, _, _, _, _, _, _, _, _, _, _, constructed⟩ := initRows ((u.drew.setIomuxRsv true).withSelf { x with phase := 7 })
  have construct := constructed (atRow_withSelf (s := u.drew.setIomuxRsv true) inRange rfl)
  rw [State.withSelf_self (s := u.drew.setIomuxRsv true) inRange] at construct
  exact (runAlone_goesOn (grant.trans (congrArg _ ((u.drew.setIomuxRsv true).withSelf_withSelf _ _))) inRange busy).trans
    (runAlone_ends (construct.trans (congrArg _ (((u.drew.setIomuxRsv true).setConstructed true).withSelf_withSelf _ _))) inRange rfl)

end Decide

end Sys2Proof.Machine
end

section
/-! PROOFS of how INIT run alone ends (spec/41_locator_lifecycle.md R145 to R149, spec/60_exceptions.md R212). -/

namespace Sys2Proof.Machine

/-- `t` is `s` after INIT has read the base register: only the latch, `LOC_RAW` and the registers of the context have changed. -/
structure Located (s t : State) : Prop where
  row : AtRow t 3
  busy : t.self.busy = true
  locRaw : t.locRaw = s.baseRegister
  pmidx : t.pmidx = locatorIndex s.params 3
  cur : t.cur = s.cur
  lock : t.lock = s.lock
  constructed : t.constructed = s.constructed
  gpioRsv : t.gpioRsv = s.gpioRsv
  iomuxRsv : t.iomuxRsv = s.iomuxRsv
  gpio : t.gpio = s.gpio
  iomux : t.iomux = s.iomux
  pmreg : t.pmreg = s.pmreg
  origValid : t.origValid = s.origValid
  origVal : t.origVal = s.origVal
  params : t.params = s.params
  inputs : t.inputs = s.inputs
  draws : t.draws = s.draws

/-- No controller exists, no region is held, and no register of a device, no entry of the table and no lock differs from `s`. -/
structure NothingHeld (s v : State) : Prop where
  constructed : v.constructed = false
  gpioRsv : v.gpioRsv = false
  iomuxRsv : v.iomuxRsv = false
  gpio : v.gpio = s.gpio
  iomux : v.iomux = s.iomux
  origValid : v.origValid = s.origValid
  origVal : v.origVal = s.origVal
  lock : v.lock = s.lock

/-- INIT run alone ends with this answer, and with nothing held. -/
def InitFails (s : State) (status : BitVec 4) (data : Nat) : Prop :=
  ∃ t, runAlone 13 .init s = .next t ∧ t.self.busy = false ∧ t.self.rsp.status = status ∧ t.self.rsp.data.toNat = data ∧
    t.constructed = false ∧ t.gpioRsv = false ∧ t.iomuxRsv = false ∧ t.gpio = s.gpio ∧ t.iomux = s.iomux ∧
    t.origValid = s.origValid ∧ t.origVal = s.origVal ∧ t.lock = s.lock

section

variable {s t v : State} {x : Context}

theorem initFails_of_run (run : runAlone 13 .init s = .next (v.withSelf x)) (inRange : v.cur < v.ctxs.length)
    (idle : x.busy = false) (h : NothingHeld s v) : InitFails s x.rsp.status x.rsp.data.toNat := by
  have self := State.withSelf_self inRange x
  exact ⟨_, run, by rw [self, idle], by rw [self], by rw [self], h.constructed, h.gpioRsv, h.iomuxRsv, h.gpio, h.iomux, h.origValid,
    h.origVal, h.lock⟩

theorem located_locating (accepted : Accepted s) : Located s (s.locating s.baseRegister (locatorIndex s.params 3) 4 3) := by
  have inRange : ((s.setPmidx (locatorIndex s.params 3)).setLocRaw s.baseRegister).cur <
      ((s.setPmidx (locatorIndex s.params 3)).setLocRaw s.baseRegister).ctxs.length := accepted.curExists
  refine ⟨atRow_withSelf inRange rfl, ?_, rfl, rfl, rfl, rfl, rfl, rfl, rfl, rfl, rfl, rfl, rfl, rfl, rfl, rfl, rfl⟩
  rw [State.locating, State.withSelf_self inRange]
  exact accepted.busy

theorem Located.nothingHeld (located : Located s t) (absent : s.constructed = false) (gpioRsv : s.gpioRsv = false)
    (iomuxRsv : s.iomuxRsv = false) : NothingHeld s t :=
  ⟨located.constructed.trans absent, located.gpioRsv.trans gpioRsv, located.iomuxRsv.trans iomuxRsv, located.gpio, located.iomux,
    located.origValid, located.origVal, located.lock⟩

theorem Located.arbiterGrants (located : Located s t) (base size : Nat) : t.arbiterGrants base size = s.arbiterGrants base size := by
  rw [State.arbiterGrants, State.arbiterGrants, located.inputs, located.draws]

theorem offsets_small {p : Params} (h : p.wellFormed = true) : p.gpioOffset < 2 ^ 32 ∧ p.iomuxOffset < 2 ^ 32 := by
  simp only [Params.wellFormed, Params.regionsWellFormed, Bool.and_eq_true, decide_eq_true_eq] at h
  exact ⟨h.2.1.2, h.2.2⟩

theorem bankSize_pos {p : Params} (h : p.wellFormed = true) : 0 < p.bankSize := by
  simp only [Params.wellFormed, Params.regionsWellFormed, Bool.and_eq_true, decide_eq_true_eq] at h
  have := h.2.1.1.1
  omega

theorem Located.toNat_gpioBase (located : Located s t) (h : s.params.wellFormed = true) :
    t.based.gpioBase.toNat = s.baseRegister.toNat - 1 + s.params.gpioOffset := by
  rw [← located.locRaw, ← located.params]
  exact State.toNat_baseAt (located.params ▸ (offsets_small h).1)

theorem Located.toNat_iomuxBase (located : Located s t) (h : s.params.wellFormed = true) :
    t.based.iomuxBase.toNat = s.baseRegister.toNat - 1 + s.params.iomuxOffset := by
  rw [← located.locRaw, ← located.params]
  exact State.toNat_baseAt (located.params ▸ (offsets_small h).2)

theorem Located.gpioGrants (located : Located s t) (h : s.params.wellFormed = true) :
    t.based.arbiterGrants t.based.gpioBase.toNat t.based.params.bankSize =
      s.arbiterGrants (s.baseRegister.toNat - 1 + s.params.gpioOffset) s.params.bankSize := by
  rw [located.toNat_gpioBase h, State.based, State.setBases_arbiterGrants, State.setBases_params, located.arbiterGrants,
    located.params]

/-- The second answer of the arbiter is one draw later (log 9). -/
theorem Located.iomuxGrants (located : Located s t) (h : s.params.wellFormed = true) :
    (t.based.drew.setGpioRsv true).arbiterGrants (t.based.drew.setGpioRsv true).iomuxBase.toNat
        (t.based.drew.setGpioRsv true).params.bankSize =
      s.drew.arbiterGrants (s.baseRegister.toNat - 1 + s.params.iomuxOffset) s.params.bankSize := by
  rw [State.setGpioRsv_iomuxBase, State.drew_iomuxBase, located.toNat_iomuxBase h]
  simp [State.arbiterGrants, State.based, State.drew, State.setBases, State.setGpioRsv, located.inputs, located.draws, located.params]

/-- Both ways on from an enabled base register stand at the first request to the arbiter. -/
theorem Located.runAlone_based {n : Nat} (located : Located s t) (notOnes : s.baseRegister ≠ 0xFFFFFFFF)
    (lowBits : s.baseRegister.toNat % 4 = 1) :
    runAlone (n + 1) .init t = runAlone n .init (t.based.withSelf { t.self with phase := 4 }) := by
  rw [← located.locRaw] at notOnes lowBits
  exact runAlone_init_based located.row located.busy notOnes lowBits

theorem Located.runAlone_granted {n : Nat} (located : Located s t) (h : s.params.wellFormed = true)
    (notOnes : s.baseRegister ≠ 0xFFFFFFFF) (lowBits : s.baseRegister.toNat % 4 = 1)
    (granted : s.arbiterGrants (s.baseRegister.toNat - 1 + s.params.gpioOffset) s.params.bankSize = true) :
    runAlone (n + 2) .init t = runAlone n .init ((t.based.drew.setGpioRsv true).withSelf { t.self with phase := 5 }) :=
  (located.runAlone_based notOnes lowBits).trans
    (runAlone_init_gpioGranted (u := t.based) located.row.curExists located.busy ((located.gpioGrants h).trans granted))

end

/-! ### The response data (R98) -/

theorem toNat_iomuxDenied (base : Base) : ((1#1 ++ 0#30 ++ base).setWidth 64).toNat = 2 ^ 63 + base.toNat := by
  rw [BitVec.toNat_setWidth_of_le (by decide), BitVec.toNat_append, ← Nat.shiftLeft_add_eq_or_of_lt base.isLt]
  rfl

theorem toNat_bases {g m : Base} (gpio : g.toNat < 2 ^ 32) (iomux : m.toNat < 2 ^ 32) :
    ((m.setWidth 32 ++ g.setWidth 32).setWidth 64).toNat = m.toNat * 2 ^ 32 + g.toNat := by
  rw [BitVec.toNat_setWidth_of_le (by decide), BitVec.toNat_append, ← Nat.shiftLeft_add_eq_or_of_lt (BitVec.isLt _),
    Nat.shiftLeft_eq, BitVec.toNat_setWidth, BitVec.toNat_setWidth, Nat.mod_eq_of_lt gpio, Nat.mod_eq_of_lt iomux]

/-! ### The statements -/

/-- Settles O38. -/
theorem initAloneConstructs : Obligations.InitAloneConstructs := by
  intro s accepted absent h chipMatch rev d raw gbase mbase notOnes lowBits gpioGranted iomuxGranted
  have supported : chipSupported s.inputs = true := (chipSupported_iff _).2 ⟨chipMatch, by
    cases gated : s.inputs.chipGated with
    | false => exact .inl rfl
    | true => exact .inr (rev gated)⟩
  have run := runAlone_located (n := 4) accepted absent h supported
  have located := located_locating accepted
  generalize s.locating s.baseRegister _ 4 3 = t at run located
  have gpioBase : t.based.gpioBase.toNat = gbase := located.toNat_gpioBase h
  have iomuxBase : t.based.iomuxBase.toNat = mbase := located.toNat_iomuxBase h
  have positive := bankSize_pos h
  have gpioInSpace := State.arbiterGrants_inSpace gpioGranted
  have iomuxInSpace := State.arbiterGrants_inSpace iomuxGranted
  have inRange : (t.based.drew.setGpioRsv true).cur < (t.based.drew.setGpioRsv true).ctxs.length := located.row.curExists
  have constructs := runAlone_init_constructed (n := 0) inRange located.busy ((located.iomuxGrants h).trans iomuxGranted)
  have self := State.withSelf_self (s := ((t.based.drew.setGpioRsv true).drew.setIomuxRsv true).setConstructed true) inRange
    { t.self with phase := 7, rsp := ⟨0, (t.based.iomuxBase.setWidth 32 ++ t.based.gpioBase.setWidth 32).setWidth 64⟩, busy := false }
  refine ⟨_, (run.trans (located.runAlone_granted h notOnes lowBits gpioGranted)).trans constructs, (congrArg Context.busy self).trans rfl,
    (congrArg (·.rsp.status) self).trans rfl, ?_, rfl, rfl, rfl, located.locRaw, gpioBase, iomuxBase, ?_, located.gpio, located.iomux,
    located.pmreg, located.origValid, located.lock⟩
  · refine (congrArg (·.rsp.data.toNat) self).trans ?_
    rw [← gpioBase, ← iomuxBase]
    exact toNat_bases (by omega) (by omega)
  · exact (congrArg BitVec.toNat located.pmidx).trans (toNat_locatorIndex h (by decide))

/-- Settles O39: five ways for the run to end before its last row. -/
theorem initAloneFails : Obligations.InitAloneFails := by
  intro s accepted absent gpioRsv iomuxRsv notHeld h d raw gbase mbase fails
  refine ⟨fun unsupported => ?_, fun supported => ?_⟩
  · have row := exec_init_chipCheck ⟨accepted.curExists, accepted.phase⟩ absent
    rw [if_neg (ne_true_of_eq_false unsupported)] at row
    exact initFails_of_run (runAlone_ends row accepted.curExists rfl) accepted.curExists rfl
      ⟨absent, gpioRsv, iomuxRsv, rfl, rfl, rfl, rfl, rfl⟩
  have run := runAlone_located (n := 4) accepted absent h supported
  have located := located_locating accepted
  generalize s.locating s.baseRegister _ 4 3 = t at run located
  have inRange := located.row.curExists
  have free : t.lock ≠ some t.cur := by rwa [located.lock, located.cur]
  have nothing := located.nothingHeld absent gpioRsv iomuxRsv
  have dataRaw : (t.locRaw.setWidth 64).toNat = raw.toNat :=
    (BitVec.toNat_setWidth_of_le (by decide)).trans (congrArg BitVec.toNat located.locRaw)
  refine ⟨fun unpopulated => ?_, fun notZero notOnes lowBits => ?_, fun notOnes lowBits denied => ?_,
    fun notOnes lowBits granted denied => ?_⟩
  · have ends := runAlone_init_undiscovered (n := 3) located.row free (by rw [located.locRaw]; exact unpopulated)
    exact dataRaw ▸ initFails_of_run (run.trans ends) inRange rfl nothing
  · have ends := runAlone_init_notMemoryMapped (n := 3) located.row free (by rw [located.locRaw]; exact notZero)
      (by rw [located.locRaw]; exact notOnes) (by rw [located.locRaw]; exact lowBits)
    exact dataRaw ▸ initFails_of_run (run.trans ends) inRange rfl nothing
  · have ends := runAlone_init_gpioDenied (u := t.based) (x := t.self) (n := 2) inRange free ((located.gpioGrants h).trans denied)
    have data : (t.based.gpioBase.setWidth 64).toNat = gbase :=
      (BitVec.toNat_setWidth_of_le (by decide)).trans (located.toNat_gpioBase h)
    exact data ▸ initFails_of_run ((run.trans (located.runAlone_based notOnes lowBits)).trans ends) inRange rfl
      ⟨nothing.constructed, nothing.gpioRsv, nothing.iomuxRsv, nothing.gpio, nothing.iomux, nothing.origValid, nothing.origVal,
        nothing.lock⟩
  · have ends := runAlone_init_iomuxDenied (u := t.based.drew.setGpioRsv true) (n := 0) inRange located.busy free
      ((located.iomuxGrants h).trans denied)
    have data : ((1#1 ++ 0#30 ++ t.based.iomuxBase).setWidth 64).toNat = 2 ^ 63 + mbase :=
      (toNat_iomuxDenied _).trans (congrArg _ (located.toNat_iomuxBase h))
    exact data ▸ initFails_of_run ((run.trans (located.runAlone_granted h notOnes lowBits granted)).trans ends) inRange rfl
      ⟨nothing.constructed, rfl, nothing.iomuxRsv, nothing.gpio, nothing.iomux, nothing.origValid, nothing.origVal, nothing.lock⟩

end Sys2Proof.Machine
end
